-- ==== Sys2Proof/Word.lean ====
section
/-! DEFINITION. The word types of the block (R14 of spec/00_scope.md): `u8` and `u16` are unsigned integers of 8 and 16
bits, bit 0 the least significant (R12; PRESUMED by the spec itself, log 1 and log 25), and the type of six like things,
one for each channel (R7). -/

namespace Sys2Proof

/-- `u8` (R8, R14). -/
abbrev Byte := BitVec 8

/-- `u16` (R8, R14): thresholds and samples. -/
abbrev Word := BitVec 16

/-- One `α` for each of the `NUM_CHANNELS = 6` channels, channel indices 0 to 5 (R7). -/
structure Six (α : Type) where
  c0 : α
  c1 : α
  c2 : α
  c3 : α
  c4 : α
  c5 : α
deriving DecidableEq, Repr

end Sys2Proof
end

