-- ==== Sys2Proof/Syntax.lean ====
section
/-! DEFINITION. The named values of the spec and the whole instruction syntax: one constructor of `Instr` for every row of
spec/opcode_table.json, and the request in which the caller presents an operation (R64, R66 of spec/30_encoding.md). -/

namespace Sys2Proof

/-- Destination classes (R57). `reserved` is `Reserved(00)`, the one code without a name. -/
inductive Dest
  | broadcast
  | endpoint
  | router
  | reserved
deriving DecidableEq, Repr

/-- Origins (R58). `reserved` is `Reserved(11)`, the one code without a name. -/
inductive Origin
  | module
  | software
  | router
  | reserved
deriving DecidableEq, Repr

/-- Command ids (R59): ten named, and `Reserved(code)` for each of `0xA`..`0xF`, so that the raw bits are kept (R62). -/
inductive CommandId
  | message
  | getDatetime
  | setDatetime
  | sendSamples
  | getControlConfig
  | setControlConfig
  | saveConfig
  | powerDown
  | requestAction
  | setTimeout
  | reservedA
  | reservedB
  | reservedC
  | reservedD
  | reservedE
  | reservedF
deriving DecidableEq, Repr

/-- A command byte decoded into its fields, the spec's `{dest, origin, id}` (R97). -/
structure CommandFields where
  dest   : Dest
  origin : Origin
  id     : CommandId
deriving DecidableEq, Repr

/-- A channel's operation mode (R26): an enumeration of four, with no numeric code inside the block. -/
inductive OperationMode
  | disabled
  | sensorControlsValve
  | forceValveOn
  | forceValveOff
deriving DecidableEq, Repr

/-- A valve level; ON means the valve is driven open (R17). -/
inductive Level
  | on
  | off
deriving DecidableEq, Repr

/-- The mode operand of `CFG_WRITE`: one of the four names, or a numeric code still to be mapped through `OPMODE_CODE` at
the boundary (R112: only then can a mode lie outside the four; D13). -/
inductive ModeOperand
  | named (m : OperationMode)
  | code (c : Word)
deriving DecidableEq, Repr

/-- One channel's configuration record `{op, min, max}` (R113). -/
structure ChannelConfig where
  op  : OperationMode
  min : Word
  max : Word
deriving DecidableEq, Repr

/-- The operations of the block: one constructor per row of spec/opcode_table.json. The first ten are R64's operations, the
next six its reserved selectors (R131), the last sixteen the command-byte rows of R59 (R101 to R111), whose operands are the
two other fields of the byte. -/
inductive Instr
  | reset
  | rxByte (b : Byte)
  | txFrame (cmd : Byte) (payload : List Byte)
  | cmdDecode (cmd : Byte)
  | cmdEncode (dest : Dest) (origin : Origin) (id : CommandId)
  | replyCmd (req : Byte) (id : BitVec 4)
  | cfgWrite (ch : Nat) (op : ModeOperand) (min : Word) (max : Word)
  | cfgRead (ch : Nat)
  | stateLoad (ch : Nat) (level : Level)
  | hystEval (value : Six Word)
  | reservedOpA
  | reservedOpB
  | reservedOpC
  | reservedOpD
  | reservedOpE
  | reservedOpF
  | message (dest : Dest) (origin : Origin)
  | getDatetime (dest : Dest) (origin : Origin)
  | setDatetime (dest : Dest) (origin : Origin)
  | sendSamples (dest : Dest) (origin : Origin)
  | getControlConfig (dest : Dest) (origin : Origin)
  | setControlConfig (dest : Dest) (origin : Origin)
  | saveConfig (dest : Dest) (origin : Origin)
  | powerDown (dest : Dest) (origin : Origin)
  | requestAction (dest : Dest) (origin : Origin)
  | setTimeout (dest : Dest) (origin : Origin)
  | reservedIdA (dest : Dest) (origin : Origin)
  | reservedIdB (dest : Dest) (origin : Origin)
  | reservedIdC (dest : Dest) (origin : Origin)
  | reservedIdD (dest : Dest) (origin : Origin)
  | reservedIdE (dest : Dest) (origin : Origin)
  | reservedIdF (dest : Dest) (origin : Origin)
deriving DecidableEq, Repr

/-- The two formats of spec/opcode_table.json: `OP` (an operation selector and its operands) and `CMD` (a command byte). -/
inductive Format
  | op
  | cmd
deriving DecidableEq, Repr

/-- An operation as the caller presents it: its format and its bytes. The selector and the command byte are the spec's, the
layout of an operation's operands after the selector is the model's (DESIGN CHOICE, log 2: the spec gives none, D3). -/
structure Request where
  format : Format
  bytes  : List Byte
deriving DecidableEq, Repr

end Sys2Proof
end

