-- ==== Sys2Proof/Config.lean ====
section
/-! DEFINITION. The named constants of the block (R8 of spec/00_scope.md; I1 of spec/93_implementation_defined.md asks for
one place), the type of the parameters the spec leaves OPEN (R6, R9, R32, D4, D13, D17), and the free values of a RESET. -/

namespace Sys2Proof

namespace Config

/-- First sync byte `SYNC1` (R8; UNVERIFIED literal, I1, log 26). -/
def sync1 : Byte := 0xAA#8

/-- Second sync byte `SYNC2` (R8; UNVERIFIED literal, I1, log 26). -/
def sync2 : Byte := 0x55#8

/-- The one payload byte of an ACK reply (R8, R68). -/
def ack : Byte := 0x06#8

/-- The one payload byte of a NACK reply (R8, R68). -/
def nack : Byte := 0x15#8

/-- The longest payload `TX_FRAME` accepts: `LEN = n + 1` must fit in a u8 (R87, R91, D9). -/
def maxTxPayload : Nat := 254

/-- FREE VALUE: `declared_len` after the RESET of the given epoch, "any u8" (R144, D28; log 12). -/
opaque freeDeclaredLen : Nat → Byte

/-- FREE VALUE: `count` after the RESET of the given epoch, "any u8" (R144, D28; log 12). -/
opaque freeCount : Nat → Byte

/-- FREE VALUE: what entry `k` of `buf` holds from the start of an epoch until a frame writes it, "any u8, each k" (R144,
D28; log 14). First argument the epoch, second the index `k`. -/
opaque freeBuf : Nat → Nat → Byte

end Config

/-- `OPMODE_CODE : OperationMode -> u16` as data: the code of each mode (D13). -/
structure OpmodeCodes where
  disabled            : Word
  sensorControlsValve : Word
  forceValveOn        : Word
  forceValveOff       : Word
deriving DecidableEq, Repr

/-- The parameters of the block. They are fixed for a run and no step changes them; they stand in the state so that every
claim is about every value of them (log 9). -/
structure Params where
  /-- `MAX_PACKET_SIZE - 1`, the largest payload of a received frame: 0 to 254 (R6). -/
  maxPayload  : Fin 255
  /-- `INIT_CONFIG` (R9, R32). -/
  initConfig  : Six ChannelConfig
  /-- `OPMODE_CODE` (R9, R26). -/
  opmodeCode  : OpmodeCodes
deriving DecidableEq, Repr

/-- `MAX_PACKET_SIZE`, with `1 <= MAX_PACKET_SIZE <= 255` by its type (R6). -/
def Params.maxPacketSize (p : Params) : Nat := p.maxPayload.val + 1

end Sys2Proof
end

