-- ==== Sys2Proof/WellFormed.lean ====
section
/-! DEFINITION. The instructions a request can carry: a payload length is a u8 (R16's Frame record, R91), a channel index is
presented in one byte (log 2). Whether an operand HAS a meaning (a channel below 6, a payload of at most 254 bytes, a named
field) is the operation's own check (R130), not this one. -/

namespace Sys2Proof

/-- A payload whose length is a u8 (R91: "The data model gives `payloadLength` as a u8"). -/
def payloadFits (p : List Byte) : Bool := decide (p.length < 256)

/-- A channel index that one byte of a request holds (log 2). -/
def channelFits (ch : Nat) : Bool := decide (ch < 256)

/-- The instruction can be presented in a request: its operands fit their places. -/
def Instr.wellFormed : Instr → Bool
  | .reset => true
  | .rxByte _ => true
  | .txFrame _ payload => payloadFits payload
  | .cmdDecode _ => true
  | .cmdEncode _ _ _ => true
  | .replyCmd _ _ => true
  | .cfgWrite ch _ _ _ => channelFits ch
  | .cfgRead ch => channelFits ch
  | .stateLoad ch _ => channelFits ch
  | .hystEval _ => true
  | .reservedOpA => true
  | .reservedOpB => true
  | .reservedOpC => true
  | .reservedOpD => true
  | .reservedOpE => true
  | .reservedOpF => true
  | .message _ _ => true
  | .getDatetime _ _ => true
  | .setDatetime _ _ => true
  | .sendSamples _ _ => true
  | .getControlConfig _ _ => true
  | .setControlConfig _ _ => true
  | .saveConfig _ _ => true
  | .powerDown _ _ => true
  | .requestAction _ _ => true
  | .setTimeout _ _ => true
  | .reservedIdA _ _ => true
  | .reservedIdB _ _ => true
  | .reservedIdC _ _ => true
  | .reservedIdD _ _ => true
  | .reservedIdE _ _ => true
  | .reservedIdF _ _ => true

end Sys2Proof
end

