-- ==== Sys2Proof/Decode.lean ====
section
/-! DEFINITION. The codes of the named values (R56 to R60 of spec/30_encoding.md), the decoder of a request, total on any
bytes and rejecting by name, the encoder, and the reading of an opcode-table word. -/

namespace Sys2Proof

/-! ## The command byte (R56 to R60) -/

/-- The destination code of a class (R57). -/
def destCode : Dest → BitVec 2
  | .broadcast => 0b11#2
  | .endpoint  => 0b10#2
  | .router    => 0b01#2
  | .reserved  => 0b00#2

/-- The destination class of a code (R57, R62, R97). -/
def destOfCode (c : BitVec 2) : Dest :=
  match c.toNat with
  | 3 => .broadcast
  | 2 => .endpoint
  | 1 => .router
  | _ => .reserved

/-- The origin code of an origin (R58). -/
def originCode : Origin → BitVec 2
  | .module   => 0b10#2
  | .software => 0b01#2
  | .router   => 0b00#2
  | .reserved => 0b11#2

/-- The origin of a code (R58, R62, R97): code `00` is ROUTER, not reserved. -/
def originOfCode (c : BitVec 2) : Origin :=
  match c.toNat with
  | 2 => .module
  | 1 => .software
  | 0 => .router
  | _ => .reserved

/-- The code of a command id (R59). -/
def idCode : CommandId → BitVec 4
  | .message          => 0x0#4
  | .getDatetime      => 0x1#4
  | .setDatetime      => 0x2#4
  | .sendSamples      => 0x3#4
  | .getControlConfig => 0x4#4
  | .setControlConfig => 0x5#4
  | .saveConfig       => 0x6#4
  | .powerDown        => 0x7#4
  | .requestAction    => 0x8#4
  | .setTimeout       => 0x9#4
  | .reservedA        => 0xA#4
  | .reservedB        => 0xB#4
  | .reservedC        => 0xC#4
  | .reservedD        => 0xD#4
  | .reservedE        => 0xE#4
  | .reservedF        => 0xF#4

/-- The command id of a code (R59, R97, R111). -/
def idOfCode (c : BitVec 4) : CommandId :=
  match c.toNat with
  | 0x0 => .message
  | 0x1 => .getDatetime
  | 0x2 => .setDatetime
  | 0x3 => .sendSamples
  | 0x4 => .getControlConfig
  | 0x5 => .setControlConfig
  | 0x6 => .saveConfig
  | 0x7 => .powerDown
  | 0x8 => .requestAction
  | 0x9 => .setTimeout
  | 0xA => .reservedA
  | 0xB => .reservedB
  | 0xC => .reservedC
  | 0xD => .reservedD
  | 0xE => .reservedE
  | _   => .reservedF

/-- `DEST = cmd[7:6]` (R56, R60). -/
def destBits (cmd : Byte) : BitVec 2 := cmd.extractLsb' 6 2

/-- `ORIG = cmd[5:4]` (R56, R60). -/
def originBits (cmd : Byte) : BitVec 2 := cmd.extractLsb' 4 2

/-- `ID = cmd[3:0]` (R56, R60). -/
def idBits (cmd : Byte) : BitVec 4 := cmd.extractLsb' 0 4

/-- The three fields of a command byte, each named or Reserved (R97). Total: every byte value decodes. -/
def fieldsOf (cmd : Byte) : CommandFields :=
  { dest := destOfCode (destBits cmd), origin := originOfCode (originBits cmd), id := idOfCode (idBits cmd) }

/-- `(DEST << 6) | (ORIG << 4) | ID`, in 8 bits (R60). -/
def packByte (dest origin : BitVec 2) (id : BitVec 4) : Byte :=
  (dest.setWidth 8 <<< 6) ||| (origin.setWidth 8 <<< 4) ||| id.setWidth 8

/-- The command byte of three fields, reserved ones with their raw bits (R60, R62). -/
def byteOf (f : CommandFields) : Byte := packByte (destCode f.dest) (originCode f.origin) (idCode f.id)

/-! ## Reading a request -/

/-- Why a request is no encoding of an operation (the model's own, log 19). -/
inductive DecodeError
  /-- the bytes end before the operands do -/
  | truncated
  /-- bits [7:4] of the selector byte are not 0: OPSEL has 4 bits (R64) -/
  | selectorBits
  /-- a destination operand above 3 -/
  | destTag
  /-- an origin operand above 3 -/
  | originTag
  /-- a command id operand above 15 -/
  | idRange
  /-- a mode operand above 4 -/
  | modeTag
  /-- a level operand above 1 -/
  | levelTag
  /-- a non-zero byte after the last operand -/
  | trailing
deriving DecidableEq, Repr

/-- A value read from the front of a list of bytes, with the bytes left over. -/
abbrev Reading (α : Type) := Except DecodeError (α × List Byte)

/-- One value after another. -/
def andThen {α β : Type} (r : Reading α) (f : α → List Byte → Reading β) : Reading β :=
  match r with
  | .ok (a, rest) => f a rest
  | .error e => .error e

/-- One byte. -/
def readByte : List Byte → Reading Byte
  | [] => .error .truncated
  | b :: rest => .ok (b, rest)

/-- A u16 operand, its low byte first (DESIGN CHOICE, log 2). -/
def readWord : List Byte → Reading Word
  | lo :: hi :: rest => .ok (hi ++ lo, rest)
  | [_] => .error .truncated
  | [] => .error .truncated

/-- `n` bytes. -/
def readBytes : Nat → List Byte → Reading (List Byte)
  | 0, rest => .ok ([], rest)
  | n + 1, bs =>
    andThen (readByte bs) fun b rest =>
    andThen (readBytes n rest) fun more rest =>
    .ok (b :: more, rest)

/-- A named destination operand: its place in R98's list, then Reserved (DESIGN CHOICE, log 2). -/
def readDest (bs : List Byte) : Reading Dest :=
  andThen (readByte bs) fun b rest =>
  match b.toNat with
  | 0 => .ok (.broadcast, rest)
  | 1 => .ok (.endpoint, rest)
  | 2 => .ok (.router, rest)
  | 3 => .ok (.reserved, rest)
  | _ => .error .destTag

/-- A named origin operand: its place in R98's list, then Reserved (DESIGN CHOICE, log 2). -/
def readOrigin (bs : List Byte) : Reading Origin :=
  andThen (readByte bs) fun b rest =>
  match b.toNat with
  | 0 => .ok (.module, rest)
  | 1 => .ok (.software, rest)
  | 2 => .ok (.router, rest)
  | 3 => .ok (.reserved, rest)
  | _ => .error .originTag

/-- An id operand, `0..15` (R64). -/
def readIdCode (bs : List Byte) : Reading (BitVec 4) :=
  andThen (readByte bs) fun b rest =>
  if b.toNat < 16 then .ok (b.setWidth 4, rest) else .error .idRange

/-- A mode operand: its place in R112's list of names, or 4 and then a numeric code (DESIGN CHOICE, log 2). -/
def readMode (bs : List Byte) : Reading ModeOperand :=
  andThen (readByte bs) fun b rest =>
  match b.toNat with
  | 0 => .ok (.named .disabled, rest)
  | 1 => .ok (.named .sensorControlsValve, rest)
  | 2 => .ok (.named .forceValveOn, rest)
  | 3 => .ok (.named .forceValveOff, rest)
  | 4 =>
    andThen (readWord rest) fun c rest =>
    .ok (.code c, rest)
  | _ => .error .modeTag

/-- A level operand: 0 for OFF, 1 for ON (DESIGN CHOICE, log 2). -/
def readLevel (bs : List Byte) : Reading Level :=
  andThen (readByte bs) fun b rest =>
  match b.toNat with
  | 0 => .ok (.off, rest)
  | 1 => .ok (.on, rest)
  | _ => .error .levelTag

/-- The six samples of `HYST_EVAL`, channel 0 first. -/
def readSamples (bs : List Byte) : Reading (Six Word) :=
  andThen (readWord bs) fun v0 bs =>
  andThen (readWord bs) fun v1 bs =>
  andThen (readWord bs) fun v2 bs =>
  andThen (readWord bs) fun v3 bs =>
  andThen (readWord bs) fun v4 bs =>
  andThen (readWord bs) fun v5 bs =>
  .ok ({ c0 := v0, c1 := v1, c2 := v2, c3 := v3, c4 := v4, c5 := v5 }, bs)

/-- `RX_BYTE b`. -/
def readRxByte (bs : List Byte) : Reading Instr :=
  andThen (readByte bs) fun b bs =>
  .ok (.rxByte b, bs)

/-- `TX_FRAME cmd, p`: the command byte, the payload's length, the payload. -/
def readTxFrame (bs : List Byte) : Reading Instr :=
  andThen (readByte bs) fun cmd bs =>
  andThen (readByte bs) fun n bs =>
  andThen (readBytes n.toNat bs) fun payload bs =>
  .ok (.txFrame cmd payload, bs)

/-- `CMD_DECODE cmd`. -/
def readCmdDecode (bs : List Byte) : Reading Instr :=
  andThen (readByte bs) fun cmd bs =>
  .ok (.cmdDecode cmd, bs)

/-- `CMD_ENCODE dest, origin, id`. -/
def readCmdEncode (bs : List Byte) : Reading Instr :=
  andThen (readDest bs) fun dest bs =>
  andThen (readOrigin bs) fun origin bs =>
  andThen (readIdCode bs) fun id bs =>
  .ok (.cmdEncode dest origin (idOfCode id), bs)

/-- `REPLY_CMD req, id`. -/
def readReplyCmd (bs : List Byte) : Reading Instr :=
  andThen (readByte bs) fun req bs =>
  andThen (readIdCode bs) fun id bs =>
  .ok (.replyCmd req id, bs)

/-- `CFG_WRITE ch, op, min, max`. -/
def readCfgWrite (bs : List Byte) : Reading Instr :=
  andThen (readByte bs) fun ch bs =>
  andThen (readMode bs) fun op bs =>
  andThen (readWord bs) fun mn bs =>
  andThen (readWord bs) fun mx bs =>
  .ok (.cfgWrite ch.toNat op mn mx, bs)

/-- `CFG_READ ch`. -/
def readCfgRead (bs : List Byte) : Reading Instr :=
  andThen (readByte bs) fun ch bs =>
  .ok (.cfgRead ch.toNat, bs)

/-- `STATE_LOAD ch, level`. -/
def readStateLoad (bs : List Byte) : Reading Instr :=
  andThen (readByte bs) fun ch bs =>
  andThen (readLevel bs) fun level bs =>
  .ok (.stateLoad ch.toNat level, bs)

/-- `HYST_EVAL v0 .. v5`. -/
def readHystEval (bs : List Byte) : Reading Instr :=
  andThen (readSamples bs) fun value bs =>
  .ok (.hystEval value, bs)

/-- The operands of the operation an OPSEL code selects (R64): every one of the sixteen codes has its row. -/
def readOperands (opsel : BitVec 4) (bs : List Byte) : Reading Instr :=
  match opsel.toNat with
  | 0x0 => .ok (.reset, bs)
  | 0x1 => readRxByte bs
  | 0x2 => readTxFrame bs
  | 0x3 => readCmdDecode bs
  | 0x4 => readCmdEncode bs
  | 0x5 => readReplyCmd bs
  | 0x6 => readCfgWrite bs
  | 0x7 => readCfgRead bs
  | 0x8 => readStateLoad bs
  | 0x9 => readHystEval bs
  | 0xA => .ok (.reservedOpA, bs)
  | 0xB => .ok (.reservedOpB, bs)
  | 0xC => .ok (.reservedOpC, bs)
  | 0xD => .ok (.reservedOpD, bs)
  | 0xE => .ok (.reservedOpE, bs)
  | _   => .ok (.reservedOpF, bs)

/-- An `OP` request: OPSEL in bits [3:0] of the first byte, whose other bits are 0 (R64; log 2). -/
def readOp : List Byte → Reading Instr
  | [] => .error .truncated
  | b :: bs => if b.toNat < 16 then readOperands (b.setWidth 4) bs else .error .selectorBits

/-- The row of a command byte, selected by its id (R59, R101 to R111). -/
def commandRow (f : CommandFields) : Instr :=
  match f.id with
  | .message          => .message f.dest f.origin
  | .getDatetime      => .getDatetime f.dest f.origin
  | .setDatetime      => .setDatetime f.dest f.origin
  | .sendSamples      => .sendSamples f.dest f.origin
  | .getControlConfig => .getControlConfig f.dest f.origin
  | .setControlConfig => .setControlConfig f.dest f.origin
  | .saveConfig       => .saveConfig f.dest f.origin
  | .powerDown        => .powerDown f.dest f.origin
  | .requestAction    => .requestAction f.dest f.origin
  | .setTimeout       => .setTimeout f.dest f.origin
  | .reservedA        => .reservedIdA f.dest f.origin
  | .reservedB        => .reservedIdB f.dest f.origin
  | .reservedC        => .reservedIdC f.dest f.origin
  | .reservedD        => .reservedIdD f.dest f.origin
  | .reservedE        => .reservedIdE f.dest f.origin
  | .reservedF        => .reservedIdF f.dest f.origin

/-- A `CMD` request: the command byte (R56). -/
def readCmd : List Byte → Reading Instr
  | [] => .error .truncated
  | b :: bs => .ok (commandRow (fieldsOf b), bs)

/-- The instruction at the front of a request's bytes, and the bytes after it. -/
def decode (format : Format) (bs : List Byte) : Reading Instr :=
  match format with
  | .op  => readOp bs
  | .cmd => readCmd bs

/-- The one instruction of a request: only zero bytes may follow it (log 2). -/
def decodeRequest (r : Request) : Except DecodeError Instr :=
  match decode r.format r.bytes with
  | .error e => .error e
  | .ok (i, rest) => if rest.all (fun b => b == 0#8) then .ok i else .error .trailing

/-! ## Writing a request -/

/-- A u16 operand, its low byte first (log 2). -/
def wordBytes (w : Word) : List Byte := [w.extractLsb' 0 8, w.extractLsb' 8 8]

/-- A named destination operand (log 2). -/
def destTag : Dest → Byte
  | .broadcast => 0#8
  | .endpoint  => 1#8
  | .router    => 2#8
  | .reserved  => 3#8

/-- A named origin operand (log 2). -/
def originTag : Origin → Byte
  | .module   => 0#8
  | .software => 1#8
  | .router   => 2#8
  | .reserved => 3#8

/-- A mode operand (log 2). -/
def modeBytes : ModeOperand → List Byte
  | .named .disabled            => [0#8]
  | .named .sensorControlsValve => [1#8]
  | .named .forceValveOn        => [2#8]
  | .named .forceValveOff       => [3#8]
  | .code c                     => 4#8 :: wordBytes c

/-- A level operand (log 2). -/
def levelByte : Level → Byte
  | .off => 0#8
  | .on  => 1#8

/-- The six samples, channel 0 first. -/
def sampleBytes (v : Six Word) : List Byte :=
  wordBytes v.c0 ++ wordBytes v.c1 ++ wordBytes v.c2 ++ wordBytes v.c3 ++ wordBytes v.c4 ++ wordBytes v.c5

/-- An `OP` request: the selector byte, then the operands. -/
def opRequest (opsel : BitVec 4) (operands : List Byte) : Request :=
  { format := .op, bytes := opsel.setWidth 8 :: operands }

/-- A `CMD` request: the command byte of the fields. -/
def cmdRequest (dest : Dest) (origin : Origin) (id : CommandId) : Request :=
  { format := .cmd, bytes := [byteOf { dest := dest, origin := origin, id := id }] }

/-- The request in which the caller presents an instruction (R59, R64). -/
def encode : Instr → Request
  | .reset => opRequest 0x0#4 []
  | .rxByte b => opRequest 0x1#4 [b]
  | .txFrame cmd payload => opRequest 0x2#4 (cmd :: BitVec.ofNat 8 payload.length :: payload)
  | .cmdDecode cmd => opRequest 0x3#4 [cmd]
  | .cmdEncode dest origin id => opRequest 0x4#4 [destTag dest, originTag origin, (idCode id).setWidth 8]
  | .replyCmd req id => opRequest 0x5#4 [req, id.setWidth 8]
  | .cfgWrite ch op mn mx => opRequest 0x6#4 (BitVec.ofNat 8 ch :: (modeBytes op ++ wordBytes mn ++ wordBytes mx))
  | .cfgRead ch => opRequest 0x7#4 [BitVec.ofNat 8 ch]
  | .stateLoad ch level => opRequest 0x8#4 [BitVec.ofNat 8 ch, levelByte level]
  | .hystEval value => opRequest 0x9#4 (sampleBytes value)
  | .reservedOpA => opRequest 0xA#4 []
  | .reservedOpB => opRequest 0xB#4 []
  | .reservedOpC => opRequest 0xC#4 []
  | .reservedOpD => opRequest 0xD#4 []
  | .reservedOpE => opRequest 0xE#4 []
  | .reservedOpF => opRequest 0xF#4 []
  | .message dest origin => cmdRequest dest origin .message
  | .getDatetime dest origin => cmdRequest dest origin .getDatetime
  | .setDatetime dest origin => cmdRequest dest origin .setDatetime
  | .sendSamples dest origin => cmdRequest dest origin .sendSamples
  | .getControlConfig dest origin => cmdRequest dest origin .getControlConfig
  | .setControlConfig dest origin => cmdRequest dest origin .setControlConfig
  | .saveConfig dest origin => cmdRequest dest origin .saveConfig
  | .powerDown dest origin => cmdRequest dest origin .powerDown
  | .requestAction dest origin => cmdRequest dest origin .requestAction
  | .setTimeout dest origin => cmdRequest dest origin .setTimeout
  | .reservedIdA dest origin => cmdRequest dest origin .reservedA
  | .reservedIdB dest origin => cmdRequest dest origin .reservedB
  | .reservedIdC dest origin => cmdRequest dest origin .reservedC
  | .reservedIdD dest origin => cmdRequest dest origin .reservedD
  | .reservedIdE dest origin => cmdRequest dest origin .reservedE
  | .reservedIdF dest origin => cmdRequest dest origin .reservedF

/-! ## The words of spec/opcode_table.json -/

/-- The longest request a word can begin: `HYST_EVAL`'s 13 bytes, or `TX_FRAME` with the payload its length byte (bits 23..16)
announces. -/
def longestRequest (w : Nat) : Nat := max 13 (3 + w / 65536 % 256)

/-- The first `n` bytes of a number, bit 0 the least significant bit of the first byte. -/
def littleBytes : Nat → Nat → List Byte
  | 0, _ => []
  | n + 1, w => BitVec.ofNat 8 w :: littleBytes n (w / 256)

/-- The format of a table word. The table gives one byte to rows of both formats and the two share the values 0 to 15; a one-byte
word above 15 can only be a command byte, every other word is read as an operation (DESIGN CHOICE, log 4). -/
def tableFormat (nbits w : Nat) : Format :=
  if nbits ≤ 8 ∧ 16 ≤ w % 2 ^ nbits then .cmd else .op

/-- A table word as a request: the bytes of its `nbits` bits and zeros up to the longest request. -/
def tableRequest (nbits w : Nat) : Request :=
  { format := tableFormat nbits w
    bytes := littleBytes ((nbits + 7) / 8) (w % 2 ^ nbits) ++ List.replicate (longestRequest w - (nbits + 7) / 8) 0#8 }

/-- The instruction the decoder reads from a word of spec/opcode_table.json. -/
def decodeTableWord (nbits w : Nat) : Option Instr :=
  match decodeRequest (tableRequest nbits w) with
  | .ok i => some i
  | .error _ => none

end Sys2Proof
end

