-- ==== Sys2Proof/Machine/State.lean ====
section
/-! DEFINITION. The state of the block (spec/10_state.md): its codec part and its comparator part (R18), its outputs and the
level at the valve pins (R33, R43), the inputs from the caller and the radio (R11, R24, R66), the parameters (R6, R9), and
the reasons a step can stop (R130 of spec/60_exceptions.md). -/

namespace Sys2Proof.Machine

/-- The receive state machine's state (R19): an enumeration, with no numeric encoding. -/
inductive RxState
  | waitSync1
  | waitSync2
  | readLength
  | readPayload
deriving DecidableEq, Repr

/-- `last[i]` (R29): `ON`, `OFF`, or the reset-only value `Unset`. -/
inductive LastState
  | unset
  | known (l : Level)
deriving DecidableEq, Repr

/-- The frame buffer `buf` (R22, R37) as the entries written since the last RESET, index and byte, indices strictly rising. An
index that is not listed holds no written value (log 14). -/
abbrev Memory := List Host.Cell

/-- The frame record handed out by the codec (R55). -/
structure Frame where
  commandByte   : Byte
  payload       : List Byte
  payloadLength : Byte
deriving DecidableEq, Repr

/-- What the transmit path does at the radio (R13): `begin_packet()`, `emit(b)`, `end_packet()`. -/
inductive RadioEvent
  | beginPacket
  | emit (b : Byte)
  | endPacket
deriving DecidableEq, Repr

/-- The value an operation returns (R64, column "results"). -/
inductive Result
  /-- the operation returns nothing, or RX_BYTE completed no frame -/
  | none
  /-- RX_BYTE: the frame it handed out (R76) -/
  | frame (f : Frame)
  /-- CMD_DECODE: `{dest, origin, id}` (R97) -/
  | fields (f : CommandFields)
  /-- CMD_ENCODE, REPLY_CMD: the command byte (R98, R99) -/
  | command (cmd : Byte)
  /-- CFG_READ: `{op, min, max}` (R113) -/
  | config (c : ChannelConfig)
  /-- HYST_EVAL: `{state, any_on}` (R115) -/
  | pass (state : Six Level) (anyOn : Bool)
deriving DecidableEq, Repr

/-- The codec part of the block's state (R18). -/
structure Codec where
  /-- `rx_state` (R19) -/
  rxState     : RxState
  /-- `declared_len` (R20) -/
  declaredLen : Byte
  /-- `count` (R21) -/
  count       : Byte
  /-- `buf` (R22) -/
  buf         : Memory
deriving DecidableEq, Repr

/-- The comparator part of the block's state (R18), with the flag `any_on` (R34). -/
structure Comparator where
  /-- `op[i]` (R26) -/
  operation    : Six OperationMode
  /-- `min[i]` (R27) -/
  minThreshold : Six Word
  /-- `max[i]` (R28) -/
  maxThreshold : Six Word
  /-- `last[i]` (R29) -/
  lastState    : Six LastState
  /-- `any_on` (R34) -/
  anyOn        : Bool
deriving DecidableEq, Repr

/-- The whole state. The first two fields are the block's (R18); the others are its outputs, its inputs, its parameters and the
model's counter of resets, as INVENTORY.md lists them. -/
structure State where
  codec      : Codec
  comparator : Comparator
  /-- the level at each valve pin: `valve_level[i]` once driven, `PIN_LEVEL[i]` before (R33; log 15) -/
  valve      : Six Level
  /-- the frame output: every frame handed out, oldest first (R51, R84) -/
  frames     : List Frame
  /-- the transmit output: every radio event, oldest first (R51) -/
  radio      : List RadioEvent
  /-- the value the last operation returned (log 16) -/
  result     : Result
  /-- the input `tx_busy` (R24) -/
  txBusy     : Bool
  /-- the levels the radio will put on `tx_busy`, one a step; the last one stays (log 6) -/
  txBusyNext : List Bool
  /-- the operations the caller has still to present, oldest first (R66; log 5) -/
  caller     : List Request
  /-- the last step was a hold (R130; log 7) -/
  held       : Bool
  /-- the parameters (R6, R9; log 9) -/
  params     : Params
  /-- how many RESETs have run: the argument of the free values (log 12) -/
  epoch      : Nat
deriving DecidableEq, Repr

/-- The reasons for a fault: there is none. "The block raises no exceptions and takes no traps" (R129), so the type has no
constructor, and that no step faults is true by its type. Safe: the model never stops where the block goes on by a fault. -/
inductive Fault
deriving DecidableEq, Repr

/-- The reasons a step is refused: R130's closed list, and the model's own two. A refused step writes no state and the run ends
(log 8). All are safe: they err toward unprovable (R130). -/
inductive Refusal
  /-- an instruction without a meaning yet, rejected in `exec`'s arm; safe -/
  | notModelled (mnemonic : String)
  /-- TX_FRAME with `len(p) > 254` (R87, R91, D9); safe -/
  | txPayloadTooLong
  /-- CMD_ENCODE of a Reserved field (R98, D29); safe -/
  | reservedField
  /-- REPLY_CMD to a request of origin MODULE or `11` (R99, D12); safe -/
  | noReplyDestination
  /-- CFG_WRITE, CFG_READ, STATE_LOAD with `ch > 5` (R112 to R114, D14); safe -/
  | channelIndex
  /-- CFG_WRITE with a numeric mode outside the image of OPMODE_CODE (R112, D13); safe -/
  | invalidMode
  /-- HYST_EVAL with a SensorControlsValve channel whose `last` is Unset (R115, R125, D16); safe -/
  | unsetLastState
  /-- an access to `buf` at or above MAX_PACKET_SIZE (R38), unreachable (R86); safe -/
  | bufferOverrun
  /-- OPSEL 0xA to 0xF (R131, D3); safe -/
  | reservedOperation
  /-- a request of the caller's queue that encodes no operation (the model's own, log 19); safe -/
  | malformedRequest (e : DecodeError)
deriving DecidableEq, Repr

/-- A channel configuration of `{Disabled, 0, 0}`, the start of spec/95_test_vectors.md's P3 and P4 (DESIGN CHOICE, log 10). -/
def State.defaultConfig : ChannelConfig := { op := .disabled, min := 0#16, max := 0#16 }

/-- The parameters of `State.reset` (DESIGN CHOICE, logs 9, 10, 11): MAX_PACKET_SIZE 255, every channel `{Disabled, 0, 0}`, four
distinct mode codes. -/
def State.defaultParams : Params :=
  { maxPayload := 254
    initConfig :=
      { c0 := defaultConfig, c1 := defaultConfig, c2 := defaultConfig
        c3 := defaultConfig, c4 := defaultConfig, c5 := defaultConfig }
    opmodeCode :=
      { disabled := 0x0D15#16, sensorControlsValve := 0x05C0#16, forceValveOn := 0x0F01#16, forceValveOff := 0x0F00#16 } }

/-- The state right after reset (R36): `rx_state` WaitSync1, the configuration INIT_CONFIG, every `last[i]` Unset, `any_on`
false, nothing handed out, sent or asked for. The values no source gives are DESIGN CHOICEs (logs 6, 9 to 15). -/
def State.reset : State :=
  { codec := { rxState := .waitSync1, declaredLen := 0#8, count := 0#8, buf := [] }
    comparator :=
      { operation :=
          { c0 := .disabled, c1 := .disabled, c2 := .disabled, c3 := .disabled, c4 := .disabled, c5 := .disabled }
        minThreshold := { c0 := 0#16, c1 := 0#16, c2 := 0#16, c3 := 0#16, c4 := 0#16, c5 := 0#16 }
        maxThreshold := { c0 := 0#16, c1 := 0#16, c2 := 0#16, c3 := 0#16, c4 := 0#16, c5 := 0#16 }
        lastState := { c0 := .unset, c1 := .unset, c2 := .unset, c3 := .unset, c4 := .unset, c5 := .unset }
        anyOn := false }
    valve := { c0 := .off, c1 := .off, c2 := .off, c3 := .off, c4 := .off, c5 := .off }
    frames := []
    radio := []
    result := .none
    txBusy := false
    txBusyNext := []
    caller := []
    held := false
    params := defaultParams
    epoch := 0 }

end Sys2Proof.Machine
end

