-- ==== Sys2Proof/Machine/Ops.lean ====
section
/-! DEFINITION. The named operations the meanings are written over: the six-entry registers (R31), the primitives on `buf`
(R38 of spec/20_memory.md), the outputs (R13, R43), the block's reset (R144), and what a step does around an operation
(R66, R130). There is no exception entry and no return from one: the block takes no traps (R129, R135, R136). -/

namespace Sys2Proof

/-! ## Six like registers -/

/-- `x[i]` (R13). -/
def Six.get {α : Type} (x : Six α) (i : Fin 6) : α :=
  match i.val with
  | 0 => x.c0
  | 1 => x.c1
  | 2 => x.c2
  | 3 => x.c3
  | 4 => x.c4
  | _ => x.c5

/-- `x[i] <- v` (R13). -/
def Six.set {α : Type} (x : Six α) (i : Fin 6) (v : α) : Six α :=
  match i.val with
  | 0 => { x with c0 := v }
  | 1 => { x with c1 := v }
  | 2 => { x with c2 := v }
  | 3 => { x with c3 := v }
  | 4 => { x with c4 := v }
  | _ => { x with c5 := v }

/-- The six values of a function of the channel, `for i in 0..5` (R115). -/
def Six.tabulate {α : Type} (f : Fin 6 → α) : Six α :=
  { c0 := f 0, c1 := f 1, c2 := f 2, c3 := f 3, c4 := f 4, c5 := f 5 }

/-- The six values if each is there, nothing if one is missing. -/
def Six.all? {α : Type} (x : Six (Option α)) : Option (Six α) :=
  match x.c0, x.c1, x.c2, x.c3, x.c4, x.c5 with
  | some v0, some v1, some v2, some v3, some v4, some v5 =>
    some { c0 := v0, c1 := v1, c2 := v2, c3 := v3, c4 := v4, c5 := v5 }
  | _, _, _, _, _, _ => none

end Sys2Proof

namespace Sys2Proof.Machine

/-! ## The frame buffer -/

/-- The written value at an index, if there is one. -/
def Memory.get : Memory → Nat → Option Byte
  | [], _ => none
  | (a, b) :: m, k => if a = k then some b else Memory.get m k

/-- The buffer with a value at an index, its indices still strictly rising. -/
def Memory.set : Memory → Nat → Byte → Memory
  | [], k, v => [(k, v)]
  | (a, b) :: m, k, v =>
    if k < a then (k, v) :: (a, b) :: m
    else if k = a then (k, v) :: m
    else (a, b) :: Memory.set m k v

/-- The canonical form: indices strictly rising. (An index that is not listed holds no written value, so no entry can equal what
an unlisted index reads as.) -/
def Memory.wf : Memory → Bool
  | [] => true
  | [_] => true
  | (a, _) :: (a', b') :: m => decide (a < a') && Memory.wf ((a', b') :: m)

/-- `MAX_PACKET_SIZE` of the run (R6). -/
def State.maxPacketSize (s : State) : Nat := s.params.maxPacketSize

/-- `buf[k]`: the byte written there since the last RESET, else the free value the RESET left there (R144; log 14). -/
def State.bufByte (s : State) (k : Nat) : Byte := (s.codec.buf.get k).getD (Config.freeBuf s.epoch k)

/-- `MemRead(k, 1)` (R38): a read at or above MAX_PACKET_SIZE is an overrun. -/
def memRead (s : State) (k : Nat) : Except Refusal Byte :=
  if k < s.maxPacketSize then .ok (s.bufByte k) else .error .bufferOverrun

/-- The state with `buf[k] <- b`. -/
def State.putBuf (s : State) (k : Nat) (b : Byte) : State :=
  { s with codec := { s.codec with buf := s.codec.buf.set k b } }

/-- `MemWrite(k, 1, b)` (R38): a write at or above MAX_PACKET_SIZE is an overrun. -/
def memWrite (s : State) (k : Nat) (b : Byte) : Except Refusal State :=
  if k < s.maxPacketSize then .ok (s.putBuf k b) else .error .bufferOverrun

/-- `[buf[k], .., buf[k+n-1]]`. -/
def memReadRange (s : State) : Nat → Nat → Except Refusal (List Byte)
  | _, 0 => .ok []
  | k, n + 1 => do
    let b ← memRead s k
    let rest ← memReadRange s (k + 1) n
    .ok (b :: rest)

/-! ## The codec's registers -/

/-- `s.rx_state <- r`. -/
def State.enterRx (s : State) (r : RxState) : State := { s with codec := { s.codec with rxState := r } }

/-- `s.declared_len <- n`. -/
def State.setDeclaredLen (s : State) (n : Byte) : State := { s with codec := { s.codec with declaredLen := n } }

/-- `s.count <- n`. -/
def State.setCount (s : State) (n : Byte) : State := { s with codec := { s.codec with count := n } }

/-! ## Outputs -/

/-- The value the operation returns. -/
def State.returning (s : State) (r : Result) : State := { s with result := r }

/-- `out_frame(f)` (R13, R84): the frame is an output of this step, after all earlier ones (R51). -/
def State.handOut (s : State) (f : Frame) : State := { s with frames := s.frames ++ [f], result := .frame f }

/-- One packet at the radio: `begin_packet()`, `emit` of each byte in order, `end_packet()` (R42, R93). -/
def packetEvents (bytes : List Byte) : List RadioEvent :=
  .beginPacket :: (bytes.map .emit ++ [.endPacket])

/-- The packet of these bytes goes out, after all earlier ones (R51). -/
def State.transmit (s : State) (bytes : List Byte) : State := { s with radio := s.radio ++ packetEvents bytes }

/-- The outcome "hold" (R130): the operation has no step, nothing but the mark changes. -/
def State.holding (s : State) : State := { s with held := true }

/-! ## The comparator's registers -/

/-- One channel's configuration record. -/
def State.channelConfig (s : State) (i : Fin 6) : ChannelConfig :=
  { op := s.comparator.operation.get i
    min := s.comparator.minThreshold.get i
    max := s.comparator.maxThreshold.get i }

/-- `op[i] <- op`, `min[i] <- mn`, `max[i] <- mx` (R112). -/
def State.writeConfig (s : State) (i : Fin 6) (c : ChannelConfig) : State :=
  { s with
    comparator :=
      { s.comparator with
        operation := s.comparator.operation.set i c.op
        minThreshold := s.comparator.minThreshold.set i c.min
        maxThreshold := s.comparator.maxThreshold.set i c.max } }

/-- `last[i] <- level`, `valve_level[i] <- level` (R114). -/
def State.loadLevel (s : State) (i : Fin 6) (l : Level) : State :=
  { s with
    comparator := { s.comparator with lastState := s.comparator.lastState.set i (.known l) }
    valve := s.valve.set i l }

/-- `last[i] <- new[i]`, `valve_level[i] <- new[i]` for every `i`, and `any_on` (R115). -/
def State.endPass (s : State) (new : Six Level) (anyOn : Bool) : State :=
  { s with
    comparator :=
      { s.comparator with
        lastState := Six.tabulate (fun i => .known (new.get i))
        anyOn := anyOn }
    valve := new }

/-! ## Reset -/

/-- The codec after RESET (R144): WaitSync1; `declared_len` and `count` any u8, and nothing written in `buf`. -/
def State.resetCodec (s : State) : Codec :=
  { rxState := .waitSync1
    declaredLen := Config.freeDeclaredLen s.epoch
    count := Config.freeCount s.epoch
    buf := [] }

/-- The comparator after RESET (R144): INIT_CONFIG, every `last[i]` Unset, `any_on` false. -/
def State.resetComparator (s : State) : Comparator :=
  { operation := Six.tabulate (fun i => (s.params.initConfig.get i).op)
    minThreshold := Six.tabulate (fun i => (s.params.initConfig.get i).min)
    maxThreshold := Six.tabulate (fun i => (s.params.initConfig.get i).max)
    lastState := Six.tabulate (fun _ => .unset)
    anyOn := false }

/-- Every piece of block state at its reset value (R36, R144). The valve pins keep their levels (R146), the outputs already made
stay made (R43), and the next free values are new ones. -/
def State.resetBlock (s : State) : State :=
  { s with codec := s.resetCodec, comparator := s.resetComparator, epoch := s.epoch + 1 }

/-! ## Around an operation -/

/-- The environment's move before an operation: the radio puts its next level on `tx_busy`, or leaves it (R11, R24; log 6). -/
def State.sampleRadio (s : State) : State :=
  match s.txBusyNext with
  | [] => s
  | b :: rest => { s with txBusy := b, txBusyNext := rest }

/-- The state in which a step's operation runs: the radio has moved, the mark of an earlier hold is gone. -/
def State.beginStep (s : State) : State := { s.sampleRadio with held := false }

/-- The caller goes on to its next operation, unless this one is held (R88, R130). -/
def State.endStep (s : State) : State :=
  if s.held then s else { s with caller := s.caller.tail }

/-- What a step makes of its operation's outcome. -/
def finishStep : Host.Outcome State Fault Refusal → Host.Outcome State Fault Refusal
  | .next t => .next t.endStep
  | .fault r => .fault r
  | .refused r => .refused r

/-- The state with one more operation for the caller to present first. -/
def State.presenting (s : State) (r : Request) : State := { s with caller := r :: s.caller }

end Sys2Proof.Machine
end

