-- ==== Sys2Proof/Machine/Operands.lean ====
section
/-! DEFINITION. The operand forms: the clamped length (R74), the wire frame of a transmission (R52, R89), the origin forcing
(R61), reserved fields (R62, R98), a reply's destination (R99), the channel index (R112 to R114) and the mode operand
(R112, D13). -/

namespace Sys2Proof.Machine

/-- `min(L, MAX_PACKET_SIZE)` (R6, R74). -/
def clampLength (p : Params) (len : Byte) : Byte := BitVec.ofNat 8 (min len.toNat p.maxPacketSize)

/-- `(cmd & 0xCF) | 0x20`: the origin field forced to MODULE, DEST and ID kept (R61, R90). -/
def forceOrigin (cmd : Byte) : Byte := (cmd &&& 0xCF#8) ||| 0x20#8

/-- The bytes of a wire frame: sync, sync, LEN, CMD, payload (R52, R89). -/
def wireFrame (cmd : Byte) (payload : List Byte) : List Byte :=
  Config.sync1 :: Config.sync2 :: BitVec.ofNat 8 (payload.length + 1) :: cmd :: payload

/-- The id is one of `0xA`..`0xF` (R59, R62). -/
def idReserved : CommandId → Bool
  | .message => false
  | .getDatetime => false
  | .setDatetime => false
  | .sendSamples => false
  | .getControlConfig => false
  | .setControlConfig => false
  | .saveConfig => false
  | .powerDown => false
  | .requestAction => false
  | .setTimeout => false
  | .reservedA => true
  | .reservedB => true
  | .reservedC => true
  | .reservedD => true
  | .reservedE => true
  | .reservedF => true

/-- A Reserved field among the three (R62, R98). -/
def fieldsReserved (f : CommandFields) : Bool :=
  f.dest == .reserved || f.origin == .reserved || idReserved f.id

/-- The destination code of a reply, from the origin of the request: SOFTWARE gets ENDPOINT, ROUTER gets ROUTER, no other origin
has one (R99). -/
def replyDest (req : Byte) : Option (BitVec 2) :=
  match originOfCode (originBits req) with
  | .software => some (destCode .endpoint)
  | .router => some (destCode .router)
  | .module => none
  | .reserved => none

/-- The channel an index names, 0 to 5 (R7, R112 to R114). -/
def channelOf (ch : Nat) : Option (Fin 6) :=
  if h : ch < 6 then some ⟨ch, h⟩ else none

/-- `OPMODE_CODE` (D13). -/
def modeCode (t : OpmodeCodes) : OperationMode → Word
  | .disabled => t.disabled
  | .sensorControlsValve => t.sensorControlsValve
  | .forceValveOn => t.forceValveOn
  | .forceValveOff => t.forceValveOff

/-- The mode of a numeric code: the one whose OPMODE_CODE it is, if there is one (R112, D13). -/
def modeOfCode (t : OpmodeCodes) (c : Word) : Option OperationMode :=
  if c = modeCode t .disabled then some .disabled
  else if c = modeCode t .sensorControlsValve then some .sensorControlsValve
  else if c = modeCode t .forceValveOn then some .forceValveOn
  else if c = modeCode t .forceValveOff then some .forceValveOff
  else none

/-- The mode a `CFG_WRITE` operand names, if it names one of the four (R112). -/
def modeOf (t : OpmodeCodes) : ModeOperand → Option OperationMode
  | .named m => some m
  | .code c => modeOfCode t c

end Sys2Proof.Machine
end

