-- ==== Sys2Proof/Machine/Codec.lean ====
section
/-! DEFINITION. The frame codec's operations: RX_BYTE (spec/41_frame_rx.md) and TX_FRAME (spec/42_frame_tx.md). -/

namespace Sys2Proof.Machine

/-- The frame under construction as a record: `commandByte = buf[0]`, `payload = [buf[1] .. buf[declared_len-1]]`,
`payloadLength = declared_len - 1` (R55, R76). -/
def completedFrame (s : State) : Except Refusal Frame := do
  let cmd ← memRead s 0
  let payload ← memReadRange s 1 (s.codec.declaredLen.toNat - 1)
  .ok { commandByte := cmd, payload := payload, payloadLength := s.codec.declaredLen - 1#8 }

/-- The tests after the store and the increment (R75, R76, R77). -/
def rxAfterStore (s : State) : Host.Outcome State Fault Refusal :=
  if s.codec.count = s.codec.declaredLen then
    match completedFrame s with
    | .ok f => .next ((s.enterRx .waitSync1).handOut f)
    | .error r => .refused r
  else if s.codec.declaredLen < s.codec.count then
    .next ((s.enterRx .waitSync1).returning .none)
  else .next (s.returning .none)

/-- A byte in ReadPayload: store, increment, then test (R75, D5). -/
def rxPayload (b : Byte) (s : State) : Host.Outcome State Fault Refusal :=
  match memWrite s s.codec.count.toNat b with
  | .ok t => rxAfterStore (t.setCount (t.codec.count + 1#8))
  | .error r => .refused r

/-- `RX_BYTE b` (R71): one byte into the receive state machine. -/
def execRxByte (b : Byte) (s : State) : Host.Outcome State Fault Refusal :=
  match s.codec.rxState with
  | .waitSync1 => .next ((s.enterRx (if b = Config.sync1 then .waitSync2 else .waitSync1)).returning .none)
  | .waitSync2 => .next ((s.enterRx (if b = Config.sync2 then .readLength else .waitSync1)).returning .none)
  | .readLength =>
    .next ((((s.setDeclaredLen (clampLength s.params b)).setCount 0#8).enterRx .readPayload).returning .none)
  | .readPayload => rxPayload b s

/-- `TX_FRAME cmd, p` (R87): the length is checked first, then the radio is waited for (R134), then the whole frame goes out in
one packet with its origin forced to MODULE. -/
def execTxFrame (cmd : Byte) (payload : List Byte) (s : State) : Host.Outcome State Fault Refusal :=
  if Config.maxTxPayload < payload.length then .refused .txPayloadTooLong
  else if s.txBusy then .next s.holding
  else .next ((s.transmit (wireFrame (forceOrigin cmd) payload)).returning .none)

end Sys2Proof.Machine
end

