-- ==== Sys2Proof/Machine/Command.lean ====
section
/-! DEFINITION. The command-byte operations (spec/43_command_byte.md): CMD_DECODE, CMD_ENCODE, REPLY_CMD, and the sixteen rows
of the command ids, for which "the block's only action is to report it through CMD_DECODE". None changes block state. -/

namespace Sys2Proof.Machine

/-- The decoded fields are the operation's result; no block state changes (R97). -/
def reportFields (f : CommandFields) (s : State) : Host.Outcome State Fault Refusal :=
  .next (s.returning (.fields f))

/-- `CMD_DECODE cmd` (R97): total, a reserved field comes back as Reserved. -/
def execCmdDecode (cmd : Byte) (s : State) : Host.Outcome State Fault Refusal :=
  reportFields (fieldsOf cmd) s

/-- `CMD_ENCODE dest, origin, id` (R98): only named values are packed. -/
def execCmdEncode (dest : Dest) (origin : Origin) (id : CommandId) (s : State) : Host.Outcome State Fault Refusal :=
  if fieldsReserved { dest := dest, origin := origin, id := id } then .refused .reservedField
  else .next (s.returning (.command (packByte (destCode dest) (originCode origin) (idCode id))))

/-- `REPLY_CMD req, id` (R99): destination from the request's origin, origin MODULE, the id as it is given. -/
def execReplyCmd (req : Byte) (id : BitVec 4) (s : State) : Host.Outcome State Fault Refusal :=
  match replyDest req with
  | some d => .next (s.returning (.command (packByte d (originCode .module) id)))
  | none => .refused .noReplyDestination

/-! ## The command ids (R101 to R111): each is decoded and reported (log 3) -/

/-- ID `0x0`, MESSAGE (R101): the block decodes it. -/
def execMessage (dest : Dest) (origin : Origin) (s : State) : Host.Outcome State Fault Refusal :=
  reportFields { dest := dest, origin := origin, id := .message } s

/-- ID `0x1`, GET_DATETIME (R102): the block decodes it. -/
def execGetDatetime (dest : Dest) (origin : Origin) (s : State) : Host.Outcome State Fault Refusal :=
  reportFields { dest := dest, origin := origin, id := .getDatetime } s

/-- ID `0x2`, SET_DATETIME (R103): the block decodes it. -/
def execSetDatetime (dest : Dest) (origin : Origin) (s : State) : Host.Outcome State Fault Refusal :=
  reportFields { dest := dest, origin := origin, id := .setDatetime } s

/-- ID `0x3`, SEND_SAMPLES (R104): the block decodes it. -/
def execSendSamples (dest : Dest) (origin : Origin) (s : State) : Host.Outcome State Fault Refusal :=
  reportFields { dest := dest, origin := origin, id := .sendSamples } s

/-- ID `0x4`, GET_CONTROL_CONFIG (R105): the block decodes it. -/
def execGetControlConfig (dest : Dest) (origin : Origin) (s : State) : Host.Outcome State Fault Refusal :=
  reportFields { dest := dest, origin := origin, id := .getControlConfig } s

/-- ID `0x5`, SET_CONTROL_CONFIG (R106): the block decodes it. -/
def execSetControlConfig (dest : Dest) (origin : Origin) (s : State) : Host.Outcome State Fault Refusal :=
  reportFields { dest := dest, origin := origin, id := .setControlConfig } s

/-- ID `0x6`, SAVE_CONFIG (R107): the block decodes it. -/
def execSaveConfig (dest : Dest) (origin : Origin) (s : State) : Host.Outcome State Fault Refusal :=
  reportFields { dest := dest, origin := origin, id := .saveConfig } s

/-- ID `0x7`, POWER_DOWN (R108): the block decodes it. -/
def execPowerDown (dest : Dest) (origin : Origin) (s : State) : Host.Outcome State Fault Refusal :=
  reportFields { dest := dest, origin := origin, id := .powerDown } s

/-- ID `0x8`, REQUEST_ACTION (R109): the block decodes it. -/
def execRequestAction (dest : Dest) (origin : Origin) (s : State) : Host.Outcome State Fault Refusal :=
  reportFields { dest := dest, origin := origin, id := .requestAction } s

/-- ID `0x9`, SET_TIMEOUT (R110): the block decodes it. -/
def execSetTimeout (dest : Dest) (origin : Origin) (s : State) : Host.Outcome State Fault Refusal :=
  reportFields { dest := dest, origin := origin, id := .setTimeout } s

/-- ID `0xA`, reserved (R111): the block decodes it. -/
def execReservedIdA (dest : Dest) (origin : Origin) (s : State) : Host.Outcome State Fault Refusal :=
  reportFields { dest := dest, origin := origin, id := .reservedA } s

/-- ID `0xB`, reserved (R111): the block decodes it. -/
def execReservedIdB (dest : Dest) (origin : Origin) (s : State) : Host.Outcome State Fault Refusal :=
  reportFields { dest := dest, origin := origin, id := .reservedB } s

/-- ID `0xC`, reserved (R111): the block decodes it. -/
def execReservedIdC (dest : Dest) (origin : Origin) (s : State) : Host.Outcome State Fault Refusal :=
  reportFields { dest := dest, origin := origin, id := .reservedC } s

/-- ID `0xD`, reserved (R111): the block decodes it. -/
def execReservedIdD (dest : Dest) (origin : Origin) (s : State) : Host.Outcome State Fault Refusal :=
  reportFields { dest := dest, origin := origin, id := .reservedD } s

/-- ID `0xE`, reserved (R111): the block decodes it. -/
def execReservedIdE (dest : Dest) (origin : Origin) (s : State) : Host.Outcome State Fault Refusal :=
  reportFields { dest := dest, origin := origin, id := .reservedE } s

/-- ID `0xF`, reserved (R111): the block decodes it. -/
def execReservedIdF (dest : Dest) (origin : Origin) (s : State) : Host.Outcome State Fault Refusal :=
  reportFields { dest := dest, origin := origin, id := .reservedF } s

end Sys2Proof.Machine
end

