-- ==== Sys2Proof/Machine/Flags.lean ====
section
/-! DEFINITION. The block's only flag, `any_on` (R34, R35), and the per-channel comparison that decides a channel's new level
(R115 to R119). The block has no condition codes (R35). -/

namespace Sys2Proof.Machine

/-- `exists i. new[i] = ON` (R34, R115, R120). -/
def anyOnOf (new : Six Level) : Bool :=
  new.c0 == .on || new.c1 == .on || new.c2 == .on || new.c3 == .on || new.c4 == .on || new.c5 == .on

/-- SensorControlsValve (R116): compared as unsigned u16, strictly, each comparison guarded by `last`. Nothing for an Unset
channel, whose pass is refused (R125). -/
def sensorLevel (mn mx value : Word) : LastState → Option Level
  | .unset => none
  | .known .on => if mx < value then some .off else some .on
  | .known .off => if value < mn then some .on else some .off

/-- A channel's new level (R115 to R119): Force and Disabled ignore `value` and `last`. -/
def newLevel (op : OperationMode) (mn mx value : Word) (last : LastState) : Option Level :=
  match op with
  | .sensorControlsValve => sensorLevel mn mx value last
  | .forceValveOn => some .on
  | .forceValveOff => some .off
  | .disabled => some .off

/-- Channel `i`'s new level in a pass. -/
def State.channelLevel (s : State) (value : Six Word) (i : Fin 6) : Option Level :=
  newLevel (s.comparator.operation.get i) (s.comparator.minThreshold.get i) (s.comparator.maxThreshold.get i)
    (value.get i) (s.comparator.lastState.get i)

/-- The six new levels of a pass, or nothing when a SensorControlsValve channel is Unset: every channel is checked before any is
written (R115, R134). -/
def State.passLevels (s : State) (value : Six Word) : Option (Six Level) :=
  (Six.tabulate (s.channelLevel value)).all?

end Sys2Proof.Machine
end

