-- ==== Sys2Proof/Machine/Comparator.lean ====
section
/-! DEFINITION. The channel registers and the hysteresis comparator (spec/44_hysteresis.md): CFG_WRITE, CFG_READ, STATE_LOAD,
HYST_EVAL. -/

namespace Sys2Proof.Machine

/-- `CFG_WRITE ch, op, min, max` (R112): the channel is checked before the mode (R134); `last`, the valve and `any_on` are left. -/
def execCfgWrite (ch : Nat) (op : ModeOperand) (mn mx : Word) (s : State) : Host.Outcome State Fault Refusal :=
  match channelOf ch with
  | none => .refused .channelIndex
  | some i =>
    match modeOf s.params.opmodeCode op with
    | none => .refused .invalidMode
    | some m => .next ((s.writeConfig i { op := m, min := mn, max := mx }).returning .none)

/-- `CFG_READ ch` (R113). -/
def execCfgRead (ch : Nat) (s : State) : Host.Outcome State Fault Refusal :=
  match channelOf ch with
  | none => .refused .channelIndex
  | some i => .next (s.returning (.config (s.channelConfig i)))

/-- `STATE_LOAD ch, level` (R114): `any_on` is left until the next pass. -/
def execStateLoad (ch : Nat) (level : Level) (s : State) : Host.Outcome State Fault Refusal :=
  match channelOf ch with
  | none => .refused .channelIndex
  | some i => .next ((s.loadLevel i level).returning .none)

/-- `HYST_EVAL v0 .. v5` (R115): refused as a whole on an Unset SensorControlsValve channel (R125), else every channel's `last`
and valve take its new level and `any_on` is recomputed (R120, R127). -/
def execHystEval (value : Six Word) (s : State) : Host.Outcome State Fault Refusal :=
  match s.passLevels value with
  | none => .refused .unsetLastState
  | some new => .next ((s.endPass new (anyOnOf new)).returning (.pass new (anyOnOf new)))

end Sys2Proof.Machine
end

