-- ==== Sys2Proof/Machine/Control.lean ====
section
/-! DEFINITION. RESET (R144 of spec/70_reset_and_hazards.md) and the reserved operation selectors (R131 of
spec/60_exceptions.md). -/

namespace Sys2Proof.Machine

/-- `RESET` (R144): also every wake from deep sleep (R146) and cold power-on (R147). A frame under construction is abandoned. -/
def execReset (s : State) : Host.Outcome State Fault Refusal :=
  .next (s.resetBlock.returning .none)

/-- A reserved selector: refused, no state written (R131). -/
def refuseReserved (_s : State) : Host.Outcome State Fault Refusal := .refused .reservedOperation

/-- OPSEL `0xA` (R131). -/
def execReservedOpA (s : State) : Host.Outcome State Fault Refusal := refuseReserved s

/-- OPSEL `0xB` (R131). -/
def execReservedOpB (s : State) : Host.Outcome State Fault Refusal := refuseReserved s

/-- OPSEL `0xC` (R131). -/
def execReservedOpC (s : State) : Host.Outcome State Fault Refusal := refuseReserved s

/-- OPSEL `0xD` (R131). -/
def execReservedOpD (s : State) : Host.Outcome State Fault Refusal := refuseReserved s

/-- OPSEL `0xE` (R131). -/
def execReservedOpE (s : State) : Host.Outcome State Fault Refusal := refuseReserved s

/-- OPSEL `0xF` (R131). -/
def execReservedOpF (s : State) : Host.Outcome State Fault Refusal := refuseReserved s

end Sys2Proof.Machine
end

