-- ==== Sys2Proof/Machine/Dispatch.lean ====
section
/-! DEFINITION. The meaning of each instruction, one arm per constructor of `Instr`. -/

namespace Sys2Proof.Machine

def exec (i : Instr) (s : State) : Host.Outcome State Fault Refusal :=
  match i with
  | .reset => Sys2Proof.Machine.execReset s
  | .rxByte b => Sys2Proof.Machine.execRxByte b s
  | .txFrame cmd payload => Sys2Proof.Machine.execTxFrame cmd payload s
  | .cmdDecode cmd => Sys2Proof.Machine.execCmdDecode cmd s
  | .cmdEncode dest origin id => Sys2Proof.Machine.execCmdEncode dest origin id s
  | .replyCmd req id => Sys2Proof.Machine.execReplyCmd req id s
  | .cfgWrite ch op mn mx => Sys2Proof.Machine.execCfgWrite ch op mn mx s
  | .cfgRead ch => Sys2Proof.Machine.execCfgRead ch s
  | .stateLoad ch level => Sys2Proof.Machine.execStateLoad ch level s
  | .hystEval value => Sys2Proof.Machine.execHystEval value s
  | .reservedOpA => Sys2Proof.Machine.execReservedOpA s
  | .reservedOpB => Sys2Proof.Machine.execReservedOpB s
  | .reservedOpC => Sys2Proof.Machine.execReservedOpC s
  | .reservedOpD => Sys2Proof.Machine.execReservedOpD s
  | .reservedOpE => Sys2Proof.Machine.execReservedOpE s
  | .reservedOpF => Sys2Proof.Machine.execReservedOpF s
  | .message dest origin => Sys2Proof.Machine.execMessage dest origin s
  | .getDatetime dest origin => Sys2Proof.Machine.execGetDatetime dest origin s
  | .setDatetime dest origin => Sys2Proof.Machine.execSetDatetime dest origin s
  | .sendSamples dest origin => Sys2Proof.Machine.execSendSamples dest origin s
  | .getControlConfig dest origin => Sys2Proof.Machine.execGetControlConfig dest origin s
  | .setControlConfig dest origin => Sys2Proof.Machine.execSetControlConfig dest origin s
  | .saveConfig dest origin => Sys2Proof.Machine.execSaveConfig dest origin s
  | .powerDown dest origin => Sys2Proof.Machine.execPowerDown dest origin s
  | .requestAction dest origin => Sys2Proof.Machine.execRequestAction dest origin s
  | .setTimeout dest origin => Sys2Proof.Machine.execSetTimeout dest origin s
  | .reservedIdA dest origin => Sys2Proof.Machine.execReservedIdA dest origin s
  | .reservedIdB dest origin => Sys2Proof.Machine.execReservedIdB dest origin s
  | .reservedIdC dest origin => Sys2Proof.Machine.execReservedIdC dest origin s
  | .reservedIdD dest origin => Sys2Proof.Machine.execReservedIdD dest origin s
  | .reservedIdE dest origin => Sys2Proof.Machine.execReservedIdE dest origin s
  | .reservedIdF dest origin => Sys2Proof.Machine.execReservedIdF dest origin s

end Sys2Proof.Machine
end

