-- ==== Sys2Proof/Machine/Step.lean ====
section
/-! DEFINITION. One step (R10, R66, R130): the radio may move `tx_busy`, the caller presents its next operation, the operation
has one of its outcomes, and the caller goes on to the next unless it is held. -/

namespace Sys2Proof.Machine

/-- One step of the machine. With no operation to present the block stays as it is (log 5). -/
def step (s : State) : Host.Outcome State Fault Refusal :=
  match s.caller with
  | [] => .next s.beginStep
  | r :: _ =>
    match decodeRequest r with
    | .ok i => finishStep (exec i s.beginStep)
    | .error e => .refused (.malformedRequest e)

/-- The state whose next step runs the instruction of a word of spec/opcode_table.json: the caller presents it before anything
else (log 5). -/
def State.withFetchWord (s : State) (nbits w : Nat) : State := s.presenting (tableRequest nbits w)

end Sys2Proof.Machine
end

