-- ==== Sys2Proof/Safety.lean ====
section
/-! DEFINITION. The words in which claims about runs are stated: a list of operations run in order (R46), a run of steps, and
the invariant of the machine: the codec's (R86), the buffer's form, the valve pins' (R33), and that of the outputs (R55, R61). -/

namespace Sys2Proof.Machine

/-- Operations run one after another, in a total order (R10, R46); the first refusal ends the run (R130). A hold leaves the mark
`held` set and no operation clears it, so a run with `held` false at its end had none; claims about waiting are made of
`runSteps`, where a held operation stays the next one. -/
def runOps : List Instr → State → Host.Outcome State Fault Refusal
  | [], s => .next s
  | i :: rest, s =>
    match exec i s with
    | .next t => runOps rest t
    | .fault r => .fault r
    | .refused r => .refused r

/-- `k` steps of the machine; the first refusal ends the run. -/
def runSteps : Nat → State → Host.Outcome State Fault Refusal
  | 0, s => .next s
  | k + 1, s =>
    match step s with
    | .next t => runSteps k t
    | .fault r => .fault r
    | .refused r => .refused r

/-- `RX b1 .. bn` (R67): the pseudo-operation that expands to one RX_BYTE for each byte. -/
def rxBytes (bs : List Byte) : List Instr := bs.map .rxByte

/-- A byte sequence received in chunks, each chunk fed when the one before it is done (R82). -/
def runChunks : List (List Byte) → State → Host.Outcome State Fault Refusal
  | [], s => .next s
  | c :: rest, s =>
    match runOps (rxBytes c) s with
    | .next t => runChunks rest t
    | .fault r => .fault r
    | .refused r => .refused r

/-- The operations that act on the codec's state: RX_BYTE and RESET. Every other one leaves it (R81, R94, R97, R112 to R115). -/
def feedsCodec : Instr → Bool
  | .reset => true
  | .rxByte _ => true
  | .txFrame _ _ => false
  | .cmdDecode _ => false
  | .cmdEncode _ _ _ => false
  | .replyCmd _ _ => false
  | .cfgWrite _ _ _ _ => false
  | .cfgRead _ => false
  | .stateLoad _ _ => false
  | .hystEval _ => false
  | .reservedOpA => false
  | .reservedOpB => false
  | .reservedOpC => false
  | .reservedOpD => false
  | .reservedOpE => false
  | .reservedOpF => false
  | .message _ _ => false
  | .getDatetime _ _ => false
  | .setDatetime _ _ => false
  | .sendSamples _ _ => false
  | .getControlConfig _ _ => false
  | .setControlConfig _ _ => false
  | .saveConfig _ _ => false
  | .powerDown _ _ => false
  | .requestAction _ _ => false
  | .setTimeout _ _ => false
  | .reservedIdA _ _ => false
  | .reservedIdB _ _ => false
  | .reservedIdC _ _ => false
  | .reservedIdD _ _ => false
  | .reservedIdE _ _ => false
  | .reservedIdF _ _ => false

/-- The inputs and parameters, which no operation writes (R24, R66, R9). -/
def SameInputs (s t : State) : Prop :=
  t.txBusy = s.txBusy ∧ t.txBusyNext = s.txBusyNext ∧ t.caller = s.caller ∧ t.params = s.params

/-- Everything a receive operation leaves: the comparator, the valves, the radio, the inputs and the parameters (R71). -/
def SameBesideCodec (s t : State) : Prop :=
  t.comparator = s.comparator ∧ t.valve = s.valve ∧ t.radio = s.radio ∧ t.held = s.held ∧ t.epoch = s.epoch ∧
    SameInputs s t

/-- Everything a comparator operation leaves: the codec with every byte of `buf`, the frame output, the radio, the inputs and the
parameters (R112 to R115, R128). -/
def SameBesideComparator (s t : State) : Prop :=
  t.codec = s.codec ∧ (∀ k, t.bufByte k = s.bufByte k) ∧ t.frames = s.frames ∧ t.radio = s.radio ∧ t.held = s.held ∧
    t.epoch = s.epoch ∧ SameInputs s t

/-- OPMODE_CODE is injective (D13). -/
def CodesDistinct (c : OpmodeCodes) : Prop := ∀ m m', modeCode c m = modeCode c m' → m = m'

/-- No SensorControlsValve channel is Unset: a pass is not refused (R115, R125). -/
def SensorsKnown (s : State) : Prop :=
  ∀ i, s.comparator.operation.get i = .sensorControlsValve → s.comparator.lastState.get i ≠ .unset

/-- R86's first law: while a payload is read, the declared length fits the buffer and the count is below it, or both are 0. -/
def CodecInv (s : State) : Prop :=
  s.codec.rxState = .readPayload →
    s.codec.declaredLen.toNat ≤ s.maxPacketSize ∧
      (s.codec.count.toNat < s.codec.declaredLen.toNat ∨ (s.codec.count = 0#8 ∧ s.codec.declaredLen = 0#8))

/-- The buffer is in its canonical form and lists no index outside it (R37). -/
def BufInv (s : State) : Prop :=
  s.codec.buf.wf = true ∧ ∀ c ∈ s.codec.buf, c.1 < s.maxPacketSize

/-- While a payload is read, every byte counted so far has been written: an entry is read only after the current frame has written
it (R22). -/
def WrittenInv (s : State) : Prop :=
  s.codec.rxState = .readPayload → ∀ k, k < s.codec.count.toNat → (s.codec.buf.get k).isSome = true

/-- `valve_level[i]` equals `last[i]` whenever `last[i]` is ON or OFF (R33). -/
def ValveInv (s : State) : Prop :=
  ∀ i l, s.comparator.lastState.get i = .known l → s.valve.get i = l

/-- Every frame handed out carries its payload's length, at most MAX_PACKET_SIZE - 1 (R55). -/
def FramesInv (s : State) : Prop :=
  ∀ f ∈ s.frames, f.payload.length = f.payloadLength.toNat ∧ f.payload.length < s.maxPacketSize

/-- A wire frame the module may send: a command byte with origin MODULE and a payload whose LEN fits a byte (R61, R90, R91). -/
def Sendable (x : Byte × List Byte) : Prop := originBits x.1 = 0b10#2 ∧ x.2.length ≤ 254

/-- All that ever went out at the radio is whole packets, one wire frame in each, every one of origin MODULE (R54, R61, R93). -/
def RadioInv (s : State) : Prop :=
  ∃ sent : List (Byte × List Byte),
    (∀ x ∈ sent, Sendable x) ∧ s.radio = sent.flatMap (fun x => packetEvents (wireFrame x.1 x.2))

/-- The invariant of the machine. -/
structure Inv (s : State) : Prop where
  codec   : CodecInv s
  buf     : BufInv s
  written : WrittenInv s
  valve   : ValveInv s
  frames  : FramesInv s
  radio   : RadioInv s

end Sys2Proof.Machine
end

