-- ==== Sys2Proof/Certificates/Slice0/Obligations.lean ====
section
/-! DEFINITION. The statements for the provers. Each docstring names the rules of spec/ it formalises, and the log entry where a
clause rests on a choice of the model. -/

open Sys2Proof Sys2Proof.Machine

/-! ## Receive framing (spec/41_frame_rx.md) -/

/-- R72. In WaitSync1 the byte AA advances and any other byte stays; no other state changes. -/
def Obligations.RxWaitSync1Transition : Prop :=
  ∀ (s : State) (b : Byte), s.codec.rxState = .waitSync1 →
    exec (.rxByte b) s = .next
      { s with
        codec := { s.codec with rxState := if b = 0xAA#8 then .waitSync2 else .waitSync1 }
        result := .none }

/-- R73. In WaitSync2 the byte 55 advances and any other byte, AA included, returns to WaitSync1, so AA AA 55 does not
synchronise. -/
def Obligations.RxWaitSync2Transition : Prop :=
  (∀ (s : State) (b : Byte), s.codec.rxState = .waitSync2 →
    exec (.rxByte b) s = .next
      { s with
        codec := { s.codec with rxState := if b = 0x55#8 then .readLength else .waitSync1 }
        result := .none }) ∧
  (∀ s : State, s.codec.rxState = .waitSync1 →
    ∃ t, runOps (rxBytes [0xAA#8, 0xAA#8, 0x55#8]) s = .next t ∧ t.codec.rxState = .waitSync1 ∧ t.frames = s.frames)

/-- R74. In ReadLength every byte L is accepted: the declared length is min(L, MAX_PACKET_SIZE), the count is 0, and the payload
is read next. -/
def Obligations.RxReadLengthLatches : Prop :=
  ∀ (s : State) (b : Byte), s.codec.rxState = .readLength →
    ∃ n : Byte, n.toNat = min b.toNat s.maxPacketSize ∧
      exec (.rxByte b) s = .next
        { s with
          codec := { s.codec with declaredLen := n, count := 0#8, rxState := .readPayload }
          result := .none }

/-- R75. In ReadPayload, at every count inside the buffer (R86 says no run leaves it), the byte is stored at buf[count], every
other entry is kept, and count goes up by one, without a wrap (R21), whichever test then holds; the tests look at the count
after that, and under R86's law the count passes the declared length only if that is 0. -/
def Obligations.RxPayloadStoresByte : Prop :=
  ∀ (s : State) (b : Byte), s.codec.rxState = .readPayload → s.codec.count.toNat < s.maxPacketSize →
    ∃ t, exec (.rxByte b) s = .next t ∧
      (∀ k, t.bufByte k = if k = s.codec.count.toNat then b else s.bufByte k) ∧
      t.codec.count.toNat = s.codec.count.toNat + 1 ∧
      t.codec.declaredLen = s.codec.declaredLen ∧
      (s.codec.count.toNat + 1 < s.codec.declaredLen.toNat →
        t.codec.rxState = .readPayload ∧ t.frames = s.frames ∧ t.result = .none) ∧
      (s.codec.count.toNat + 1 = s.codec.declaredLen.toNat →
        t.codec.rxState = .waitSync1 ∧ t.frames.length = s.frames.length + 1) ∧
      (s.codec.declaredLen.toNat < s.codec.count.toNat + 1 →
        t.codec.rxState = .waitSync1 ∧ t.frames = s.frames ∧ t.result = .none) ∧
      (CodecInv s → s.codec.declaredLen.toNat < s.codec.count.toNat + 1 → s.codec.declaredLen = 0#8) ∧
      SameBesideCodec s t

/-- R76, R55. The byte with which count reaches the declared length hands out the frame: command byte buf[0], payload
buf[1 .. declared_len-1], its length declared_len - 1, at most MAX_PACKET_SIZE - 1; the codec returns to WaitSync1. -/
def Obligations.RxCompletionHandsOutFrame : Prop :=
  ∀ (s : State) (b : Byte), s.codec.rxState = .readPayload → s.codec.count.toNat < s.maxPacketSize →
    s.codec.count.toNat + 1 = s.codec.declaredLen.toNat →
    ∃ t f, exec (.rxByte b) s = .next t ∧
      t.frames = s.frames ++ [f] ∧ t.result = .frame f ∧ t.codec.rxState = .waitSync1 ∧
      f.commandByte = t.bufByte 0 ∧
      f.payloadLength.toNat = s.codec.declaredLen.toNat - 1 ∧
      f.payloadLength.toNat ≤ s.maxPacketSize - 1 ∧
      f.payload.length = s.codec.declaredLen.toNat - 1 ∧
      (∀ k, k < s.codec.declaredLen.toNat - 1 → f.payload[k]? = some (t.bufByte (k + 1))) ∧
      (∀ k, t.bufByte k = if k = s.codec.count.toNat then b else s.bufByte k) ∧
      SameBesideCodec s t

/-- R77. When count passes the declared length the codec returns to WaitSync1 and hands out nothing; in a state that meets R86
this happens exactly with declared length 0; only a LEN of 0 gives that length; and a LEN of 0 consumes exactly one byte after it,
whatever its value. -/
def Obligations.RxZeroLengthDropsOneByte : Prop :=
  (∀ (s : State) (b : Byte), s.codec.rxState = .readPayload → s.codec.count.toNat < s.maxPacketSize →
    s.codec.declaredLen.toNat < s.codec.count.toNat + 1 →
    ∃ t, exec (.rxByte b) s = .next t ∧ t.codec.rxState = .waitSync1 ∧ t.frames = s.frames ∧ t.result = .none ∧
      SameBesideCodec s t) ∧
  (∀ s : State, CodecInv s → s.codec.rxState = .readPayload →
    (s.codec.declaredLen.toNat < s.codec.count.toNat + 1 ↔ s.codec.declaredLen = 0#8)) ∧
  (∀ (s : State) (b : Byte), s.codec.rxState = .readLength →
    ∃ t, exec (.rxByte b) s = .next t ∧ (t.codec.declaredLen = 0#8 ↔ b = 0x00#8)) ∧
  (∀ (s : State) (b : Byte), s.codec.rxState = .readLength →
    ∃ t, runOps (rxBytes [0x00#8, b]) s = .next t ∧ t.codec.rxState = .waitSync1 ∧ t.frames = s.frames)

/-- R85, under R86's law: RX_BYTE has a step in every state for every byte; it never holds and never refuses. -/
def Obligations.RxByteAlwaysSteps : Prop :=
  ∀ (s : State) (b : Byte), CodecInv s → ∃ t, exec (.rxByte b) s = .next t ∧ t.held = s.held

/-- R80. One RX_BYTE hands out at most one frame, and only when the count reaches the declared length, a whole one. -/
def Obligations.RxHandsOutAtMostOneWholeFrame : Prop :=
  ∀ (s t : State) (b : Byte), exec (.rxByte b) s = .next t →
    t.frames = s.frames ∨
      ∃ f, t.frames = s.frames ++ [f] ∧ s.codec.rxState = .readPayload ∧
        s.codec.count.toNat + 1 = s.codec.declaredLen.toNat ∧ f.payload.length + 1 = s.codec.declaredLen.toNat

/-- R82. The frames a byte sequence hands out, and the codec it leaves, depend only on the bytes and on the codec it starts from:
whatever else two states hold (comparator, valves, outputs so far, inputs, the mark of a hold), with one codec, one MAX_PACKET_SIZE
and one reading of unwritten buffer entries, the same bytes add the same frames and end in the same codec, one state being fed in
any chunks and the other whole. -/
def Obligations.RxChunkInvariance : Prop :=
  ∀ (chunks : List (List Byte)) (s s' t : State), s'.codec = s.codec → s'.epoch = s.epoch → s'.params = s.params →
    runChunks chunks s = .next t →
    ∃ t' fs, runOps (rxBytes chunks.flatten) s' = .next t' ∧
      t.frames = s.frames ++ fs ∧ t'.frames = s'.frames ++ fs ∧ t'.codec = t.codec

/-- R83, R81. While a payload is read no byte value is special: two bytes, AA and 55 among them, leave the same codec but for the
entry they are stored in, and both or neither complete a frame. -/
def Obligations.RxPayloadBytesAreData : Prop :=
  ∀ (s : State) (b b' : Byte), CodecInv s → s.codec.rxState = .readPayload →
    ∃ t t', exec (.rxByte b) s = .next t ∧ exec (.rxByte b') s = .next t' ∧
      t.codec.rxState = t'.codec.rxState ∧ t.codec.rxState ≠ .waitSync2 ∧ t.codec.rxState ≠ .readLength ∧
      t.codec.count = t'.codec.count ∧ t.codec.declaredLen = t'.codec.declaredLen ∧
      t.bufByte s.codec.count.toNat = b ∧ t'.bufByte s.codec.count.toNat = b' ∧
      (∀ k, k ≠ s.codec.count.toNat → t.bufByte k = t'.bufByte k) ∧
      t.frames.length = t'.frames.length

/-- R84, R149. In the state after a frame (WaitSync1) the next three RX_BYTEs leave every byte of buf: a frame's bytes stay until
the next frame's payload writes over them. -/
def Obligations.FrameBytesStayThreeBytes : Prop :=
  ∀ (s t : State) (bs : List Byte), s.codec.rxState = .waitSync1 → bs.length ≤ 3 →
    runOps (rxBytes bs) s = .next t → ∀ k, t.bufByte k = s.bufByte k

/-- R52, R53, R55, R76. From WaitSync1, whatever the buffer holds, the bytes of a wire frame that fits the buffer hand out exactly
that frame, return to WaitSync1 and touch nothing else. -/
def Obligations.WireFrameIsReassembled : Prop :=
  ∀ (s : State) (cmd : Byte) (payload : List Byte), s.codec.rxState = .waitSync1 →
    payload.length + 1 ≤ s.maxPacketSize →
    ∃ t, runOps (rxBytes (0xAA#8 :: 0x55#8 :: BitVec.ofNat 8 (payload.length + 1) :: cmd :: payload)) s = .next t ∧
      t.frames = s.frames ++
        [{ commandByte := cmd, payload := payload, payloadLength := BitVec.ofNat 8 payload.length }] ∧
      t.codec.rxState = .waitSync1 ∧ SameBesideCodec s t

/-- R78. A frame whose LEN exceeds MAX_PACKET_SIZE is clamped, not discarded: its first MAX_PACKET_SIZE bytes after LEN are handed
out as a frame, the codec is in WaitSync1 again, and the rest of the sender's bytes are received from there like any others. -/
def Obligations.OversizedFrameIsClamped : Prop :=
  ∀ (s : State) (len cmd : Byte) (payload rest : List Byte), s.codec.rxState = .waitSync1 →
    s.maxPacketSize < len.toNat → payload.length + 1 = s.maxPacketSize →
    ∃ t, runOps (rxBytes (0xAA#8 :: 0x55#8 :: len :: cmd :: payload)) s = .next t ∧
      t.frames = s.frames ++
        [{ commandByte := cmd, payload := payload, payloadLength := BitVec.ofNat 8 (s.maxPacketSize - 1) }] ∧
      t.codec.rxState = .waitSync1 ∧ SameBesideCodec s t ∧
      runOps (rxBytes (0xAA#8 :: 0x55#8 :: len :: cmd :: (payload ++ rest))) s = runOps (rxBytes rest) t

/-! ## Transmit serialisation (spec/42_frame_tx.md) -/

/-- R87, R89, R90. With the radio free and at most 254 payload bytes, one packet goes out: AA, 55, n + 1, the command byte with its
origin forced to MODULE, the payload; nothing else of the state changes (R94). -/
def Obligations.TxEmitsOnePacket : Prop :=
  ∀ (s : State) (cmd : Byte) (p : List Byte), s.txBusy = false → p.length ≤ 254 →
    exec (.txFrame cmd p) s = .next
      { s with
        radio := s.radio ++ (.beginPacket ::
          ((0xAA#8 :: 0x55#8 :: BitVec.ofNat 8 (p.length + 1) :: ((cmd &&& 0xCF#8) ||| 0x20#8) :: p).map .emit
            ++ [.endPacket]))
        result := .none }

/-- R88. While tx_busy is true TX_FRAME has no step: nothing changes but the model's mark of the hold (log 7). -/
def Obligations.TxHoldsWhileBusy : Prop :=
  ∀ (s : State) (cmd : Byte) (p : List Byte), s.txBusy = true → p.length ≤ 254 →
    exec (.txFrame cmd p) s = .next { s with held := true }

/-- R91, R134. A payload of more than 254 bytes is refused before anything is emitted, and before the wait on the radio. -/
def Obligations.TxRefusesLongPayload : Prop :=
  ∀ (s : State) (cmd : Byte) (p : List Byte), 254 < p.length →
    exec (.txFrame cmd p) s = .refused .txPayloadTooLong

/-- R88. A TX_FRAME that the caller presents waits for as many steps as the radio stays busy and goes out at the first step at
which it is free. That the radio's levels stand in a list, one a step, is the model's choice (log 6). -/
def Obligations.TxProceedsWhenRadioFrees : Prop :=
  ∀ (s : State) (r : Request) (rest : List Request) (cmd : Byte) (p : List Byte) (k : Nat) (more : List Bool),
    s.caller = r :: rest → decodeRequest r = .ok (.txFrame cmd p) → p.length ≤ 254 →
    s.txBusyNext = List.replicate k true ++ false :: more →
    ∃ t, runSteps (k + 1) s = .next t ∧
      t.radio = s.radio ++ packetEvents (wireFrame (forceOrigin cmd) p) ∧ t.caller = rest ∧ t.held = false ∧
      t.codec = s.codec ∧ t.comparator = s.comparator ∧ t.valve = s.valve ∧ t.frames = s.frames

/-- R96, R143. While the radio never frees, a TX_FRAME never proceeds and the caller is held for ever: after any number of steps
nothing has gone out and the operation is still the next one. The radio's levels are the model's list (log 6). -/
def Obligations.TxHangsWhileRadioBusy : Prop :=
  ∀ (s : State) (r : Request) (rest : List Request) (cmd : Byte) (p : List Byte) (k : Nat),
    s.caller = r :: rest → decodeRequest r = .ok (.txFrame cmd p) → p.length ≤ 254 →
    s.txBusy = true → (∀ b ∈ s.txBusyNext, b = true) →
    ∃ t, runSteps k s = .next t ∧ t.radio = s.radio ∧ t.caller = s.caller ∧ (0 < k → t.held = true) ∧
      t.codec = s.codec ∧ t.comparator = s.comparator ∧ t.valve = s.valve ∧ t.frames = s.frames

/-- R89, R90, R95, R76. What one block transmits another receives: the bytes of the packet, fed to any block in WaitSync1 whose
buffer they fit, hand out the payload under the same destination and id and with origin MODULE. -/
def Obligations.TransmittedFrameIsReceived : Prop :=
  ∀ (s peer : State) (cmd : Byte) (p : List Byte), s.txBusy = false → p.length ≤ 254 →
    peer.codec.rxState = .waitSync1 → p.length + 1 ≤ peer.maxPacketSize →
    ∃ t bytes got c, exec (.txFrame cmd p) s = .next t ∧ t.radio = s.radio ++ packetEvents bytes ∧
      runOps (rxBytes bytes) peer = .next got ∧
      got.frames = peer.frames ++ [{ commandByte := c, payload := p, payloadLength := BitVec.ofNat 8 p.length }] ∧
      originBits c = 0b10#2 ∧ destBits c = destBits cmd ∧ idBits c = idBits cmd

/-! ## The command byte (spec/30_encoding.md, spec/43_command_byte.md) -/

/-- R57, R58, R59. The codes of the destinations, the origins and the command ids, that the other codes are Reserved, and that the
code of what a code names is that code. -/
def Obligations.CommandByteCodes : Prop :=
  (destOfCode 0b11#2 = .broadcast ∧ destOfCode 0b10#2 = .endpoint ∧ destOfCode 0b01#2 = .router ∧
    destOfCode 0b00#2 = .reserved) ∧
  (originOfCode 0b10#2 = .module ∧ originOfCode 0b01#2 = .software ∧ originOfCode 0b00#2 = .router ∧
    originOfCode 0b11#2 = .reserved) ∧
  (idOfCode 0x0#4 = .message ∧ idOfCode 0x1#4 = .getDatetime ∧ idOfCode 0x2#4 = .setDatetime ∧
    idOfCode 0x3#4 = .sendSamples ∧ idOfCode 0x4#4 = .getControlConfig ∧ idOfCode 0x5#4 = .setControlConfig ∧
    idOfCode 0x6#4 = .saveConfig ∧ idOfCode 0x7#4 = .powerDown ∧ idOfCode 0x8#4 = .requestAction ∧
    idOfCode 0x9#4 = .setTimeout) ∧
  (∀ k : BitVec 4, idReserved (idOfCode k) = true ↔ 9 < k.toNat) ∧
  (∀ c, destCode (destOfCode c) = c) ∧ (∀ c, originCode (originOfCode c) = c) ∧ (∀ k, idCode (idOfCode k) = k)

/-- R97, R56. CMD_DECODE returns the three fields, the destination and the origin by name, the id the one whose code bits [3:0]
hold, Reserved above 9, and changes no block state; every byte decodes. -/
def Obligations.CmdDecodeReturnsFields : Prop :=
  ∀ (s : State) (cmd : Byte),
    ∃ d o k, exec (.cmdDecode cmd) s = .next { s with result := .fields { dest := d, origin := o, id := k } } ∧
      (cmd.extractLsb' 6 2 = 0b11#2 → d = .broadcast) ∧ (cmd.extractLsb' 6 2 = 0b10#2 → d = .endpoint) ∧
      (cmd.extractLsb' 6 2 = 0b01#2 → d = .router) ∧ (cmd.extractLsb' 6 2 = 0b00#2 → d = .reserved) ∧
      (cmd.extractLsb' 4 2 = 0b10#2 → o = .module) ∧ (cmd.extractLsb' 4 2 = 0b01#2 → o = .software) ∧
      (cmd.extractLsb' 4 2 = 0b00#2 → o = .router) ∧ (cmd.extractLsb' 4 2 = 0b11#2 → o = .reserved) ∧
      idCode k = cmd.extractLsb' 0 4 ∧ (idReserved k = true ↔ 9 < (cmd.extractLsb' 0 4).toNat)

/-- R98, R60. CMD_ENCODE packs three named fields as (d << 6) | (o << 4) | id and refuses any Reserved one. -/
def Obligations.CmdEncodePacksNamedFields : Prop :=
  ∀ (s : State) (d : Dest) (o : Origin) (k : CommandId),
    (d ≠ .reserved → o ≠ .reserved → idReserved k = false →
      ∃ c : Byte, exec (.cmdEncode d o k) s = .next { s with result := .command c } ∧
        c.toNat = (destCode d).toNat * 64 + (originCode o).toNat * 16 + (idCode k).toNat) ∧
    (d = .reserved ∨ o = .reserved ∨ idReserved k = true → exec (.cmdEncode d o k) s = .refused .reservedField)

/-- R99. REPLY_CMD: a SOFTWARE request gets ENDPOINT, a ROUTER request gets ROUTER, the origin is MODULE and the id is kept
unchecked; a request of origin MODULE or 11 is refused; and the origin forcing changes nothing of a reply. -/
def Obligations.ReplyCmdRetagsRequest : Prop :=
  ∀ (s : State) (req : Byte) (id : BitVec 4),
    (req.extractLsb' 4 2 = 0b01#2 →
      exec (.replyCmd req id) s = .next { s with result := .command (0xA0#8 ||| id.setWidth 8) }) ∧
    (req.extractLsb' 4 2 = 0b00#2 →
      exec (.replyCmd req id) s = .next { s with result := .command (0x60#8 ||| id.setWidth 8) }) ∧
    (req.extractLsb' 4 2 = 0b10#2 ∨ req.extractLsb' 4 2 = 0b11#2 →
      exec (.replyCmd req id) s = .refused .noReplyDestination) ∧
    (∀ c : Byte, exec (.replyCmd req id) s = .next { s with result := .command c } →
      (c &&& 0xCF#8) ||| 0x20#8 = c)

/-- R100. CMD_ENCODE undoes CMD_DECODE on the 90 bytes whose fields are all named, CMD_DECODE undoes CMD_ENCODE on every named
triple, and CMD_ENCODE refuses what any of the other bytes decodes to. -/
def Obligations.CommandByteRoundTrip : Prop :=
  (∀ (s : State) (c : Byte), fieldsReserved (fieldsOf c) = false →
    ∃ d o k, exec (.cmdDecode c) s = .next { s with result := .fields { dest := d, origin := o, id := k } } ∧
      exec (.cmdEncode d o k) s = .next { s with result := .command c }) ∧
  (∀ (s : State) (d : Dest) (o : Origin) (k : CommandId), d ≠ .reserved → o ≠ .reserved → idReserved k = false →
    ∃ c, exec (.cmdEncode d o k) s = .next { s with result := .command c } ∧
      exec (.cmdDecode c) s = .next { s with result := .fields { dest := d, origin := o, id := k } }) ∧
  (∀ (s : State) (c : Byte), fieldsReserved (fieldsOf c) = true →
    ∃ d o k, exec (.cmdDecode c) s = .next { s with result := .fields { dest := d, origin := o, id := k } } ∧
      exec (.cmdEncode d o k) s = .refused .reservedField) ∧
  ((List.range 256).filter (fun n => !fieldsReserved (fieldsOf (BitVec.ofNat 8 n)))).length = 90

/-- Section 2 of spec/43_command_byte.md (R101 to R111): each command-id row completes in every state by reporting its fields, and
changes no block state. That a row is presented by its byte alone is the model's choice (log 3). -/
def Obligations.CommandRowsReportTheirFields : Prop :=
  ∀ (s : State) (d : Dest) (o : Origin),
    exec (.message d o) s = .next { s with result := .fields { dest := d, origin := o, id := .message } } ∧
    exec (.getDatetime d o) s = .next { s with result := .fields { dest := d, origin := o, id := .getDatetime } } ∧
    exec (.setDatetime d o) s = .next { s with result := .fields { dest := d, origin := o, id := .setDatetime } } ∧
    exec (.sendSamples d o) s = .next { s with result := .fields { dest := d, origin := o, id := .sendSamples } } ∧
    exec (.getControlConfig d o) s =
      .next { s with result := .fields { dest := d, origin := o, id := .getControlConfig } } ∧
    exec (.setControlConfig d o) s =
      .next { s with result := .fields { dest := d, origin := o, id := .setControlConfig } } ∧
    exec (.saveConfig d o) s = .next { s with result := .fields { dest := d, origin := o, id := .saveConfig } } ∧
    exec (.powerDown d o) s = .next { s with result := .fields { dest := d, origin := o, id := .powerDown } } ∧
    exec (.requestAction d o) s = .next { s with result := .fields { dest := d, origin := o, id := .requestAction } } ∧
    exec (.setTimeout d o) s = .next { s with result := .fields { dest := d, origin := o, id := .setTimeout } } ∧
    exec (.reservedIdA d o) s = .next { s with result := .fields { dest := d, origin := o, id := .reservedA } } ∧
    exec (.reservedIdB d o) s = .next { s with result := .fields { dest := d, origin := o, id := .reservedB } } ∧
    exec (.reservedIdC d o) s = .next { s with result := .fields { dest := d, origin := o, id := .reservedC } } ∧
    exec (.reservedIdD d o) s = .next { s with result := .fields { dest := d, origin := o, id := .reservedD } } ∧
    exec (.reservedIdE d o) s = .next { s with result := .fields { dest := d, origin := o, id := .reservedE } } ∧
    exec (.reservedIdF d o) s = .next { s with result := .fields { dest := d, origin := o, id := .reservedF } }

/-- "For every id the block's only action is to report it through CMD_DECODE": every byte is a command row, the row of its id, and
running the row is running CMD_DECODE on the byte. That a command row presented alone runs as CMD_DECODE is the model's choice
(log 3, DEDUCED from the sentence quoted). -/
def Obligations.CommandRowRunsAsCmdDecode : Prop :=
  ∀ (s : State) (c : Byte) (rest : List Byte),
    ∃ i, decode .cmd (c :: rest) = .ok (i, rest) ∧ encode i = { format := .cmd, bytes := [c] } ∧
      exec i s = exec (.cmdDecode c) s

/-! ## Channel registers and comparator (spec/44_hysteresis.md) -/

/-- R112. CFG_WRITE to a channel 0 to 5 with a named mode, or with its OPMODE_CODE where the codes are distinct (D13), overwrites
that channel's mode and thresholds, any pair of them, and nothing else: `last`, the valves and `any_on` are unchanged. -/
def Obligations.CfgWriteOverwritesOneChannel : Prop :=
  ∀ (s : State) (ch : Nat) (op : ModeOperand) (m : OperationMode) (mn mx : Word), ch < 6 →
    (op = .named m ∨ (CodesDistinct s.params.opmodeCode ∧ op = .code (modeCode s.params.opmodeCode m))) →
    ∃ t, exec (.cfgWrite ch op mn mx) s = .next t ∧
      (∀ j : Fin 6, t.comparator.operation.get j = if j.val = ch then m else s.comparator.operation.get j) ∧
      (∀ j : Fin 6, t.comparator.minThreshold.get j = if j.val = ch then mn else s.comparator.minThreshold.get j) ∧
      (∀ j : Fin 6, t.comparator.maxThreshold.get j = if j.val = ch then mx else s.comparator.maxThreshold.get j) ∧
      t.comparator.lastState = s.comparator.lastState ∧ t.comparator.anyOn = s.comparator.anyOn ∧
      t.valve = s.valve ∧ t.result = .none ∧ SameBesideComparator s t

/-- R112, R134. A channel above 5 is refused, before the mode is looked at; then a code that is no mode's OPMODE_CODE. -/
def Obligations.CfgWriteRefusals : Prop :=
  ∀ (s : State) (ch : Nat) (op : ModeOperand) (mn mx : Word),
    (5 < ch → exec (.cfgWrite ch op mn mx) s = .refused .channelIndex) ∧
    (∀ c, ch ≤ 5 → op = .code c → (∀ m, modeCode s.params.opmodeCode m ≠ c) →
      exec (.cfgWrite ch op mn mx) s = .refused .invalidMode)

/-- R113. CFG_READ returns the channel's mode and thresholds and writes no state; right after a RESET it returns INIT_CONFIG's; a
channel above 5 is refused. -/
def Obligations.CfgReadReturnsChannel : Prop :=
  ∀ s : State,
    (∀ i : Fin 6, exec (.cfgRead i.val) s = .next
      { s with
        result := .config
          { op := s.comparator.operation.get i, min := s.comparator.minThreshold.get i,
            max := s.comparator.maxThreshold.get i } }) ∧
    (∀ i : Fin 6, ∃ t, exec .reset s = .next t ∧
      exec (.cfgRead i.val) t = .next { t with result := .config (s.params.initConfig.get i) }) ∧
    (∀ ch, 5 < ch → exec (.cfgRead ch) s = .refused .channelIndex)

/-- R114. STATE_LOAD sets the channel's `last` and valve level, at any time, and nothing else; `any_on` is not recomputed; a channel
above 5 is refused. -/
def Obligations.StateLoadSetsOneChannel : Prop :=
  (∀ (s : State) (ch : Nat) (l : Level), ch < 6 →
    ∃ t, exec (.stateLoad ch l) s = .next t ∧
      (∀ j : Fin 6, t.comparator.lastState.get j = if j.val = ch then .known l else s.comparator.lastState.get j) ∧
      (∀ j : Fin 6, t.valve.get j = if j.val = ch then l else s.valve.get j) ∧
      t.comparator.operation = s.comparator.operation ∧ t.comparator.minThreshold = s.comparator.minThreshold ∧
      t.comparator.maxThreshold = s.comparator.maxThreshold ∧ t.comparator.anyOn = s.comparator.anyOn ∧
      t.result = .none ∧ SameBesideComparator s t) ∧
  (∀ (s : State) (ch : Nat) (l : Level), 5 < ch → exec (.stateLoad ch l) s = .refused .channelIndex)

/-- R115 to R120, R125. A pass with an Unset SensorControlsValve channel is refused as a whole. Every other pass completes: each
channel's new level is R116's to R119's, compared as unsigned numbers, it becomes `last` and the valve level, and `any_on` is true
exactly when a channel ended ON. The configuration and all else is unchanged. -/
def Obligations.HystEvalAppliesPolicy : Prop :=
  ∀ (s : State) (v : Six Word),
    (SensorsKnown s → ∃ t new, exec (.hystEval v) s = .next t ∧
      (∀ i, (s.comparator.operation.get i = .forceValveOn → new.get i = Level.on) ∧
        (s.comparator.operation.get i = .forceValveOff → new.get i = .off) ∧
        (s.comparator.operation.get i = .disabled → new.get i = .off) ∧
        (s.comparator.operation.get i = .sensorControlsValve → s.comparator.lastState.get i = .known .on →
          new.get i = if (s.comparator.maxThreshold.get i).toNat < (v.get i).toNat then .off else .on) ∧
        (s.comparator.operation.get i = .sensorControlsValve → s.comparator.lastState.get i = .known .off →
          new.get i = if (v.get i).toNat < (s.comparator.minThreshold.get i).toNat then .on else .off)) ∧
      (∀ i, t.comparator.lastState.get i = .known (new.get i)) ∧ t.valve = new ∧
      (t.comparator.anyOn = true ↔ ∃ i, new.get i = .on) ∧ t.result = .pass new t.comparator.anyOn ∧
      t.comparator.operation = s.comparator.operation ∧ t.comparator.minThreshold = s.comparator.minThreshold ∧
      t.comparator.maxThreshold = s.comparator.maxThreshold ∧ SameBesideComparator s t) ∧
    (¬ SensorsKnown s → exec (.hystEval v) s = .refused .unsetLastState)

/-- R121. Channel i's new state depends only on its own registers and sample: two passes that agree on them, whatever the other
channels hold, leave the channel the same. -/
def Obligations.ChannelsAreIndependent : Prop :=
  ∀ (s s' t t' : State) (v v' : Six Word) (i : Fin 6),
    s.comparator.operation.get i = s'.comparator.operation.get i →
    s.comparator.minThreshold.get i = s'.comparator.minThreshold.get i →
    s.comparator.maxThreshold.get i = s'.comparator.maxThreshold.get i →
    s.comparator.lastState.get i = s'.comparator.lastState.get i → v.get i = v'.get i →
    exec (.hystEval v) s = .next t → exec (.hystEval v') s' = .next t' →
    t.comparator.lastState.get i = t'.comparator.lastState.get i ∧ t.valve.get i = t'.valve.get i

/-- R122. With min > max a SensorControlsValve channel toggles on every pass whose value lies strictly between them, goes to ON for
a value up to max and to OFF for a value from min. -/
def Obligations.InvertedThresholdsToggle : Prop :=
  ∀ (s t : State) (v : Six Word) (i : Fin 6) (l : Level),
    exec (.hystEval v) s = .next t → s.comparator.operation.get i = .sensorControlsValve →
    s.comparator.lastState.get i = .known l →
    (s.comparator.maxThreshold.get i).toNat < (s.comparator.minThreshold.get i).toNat →
    ((s.comparator.maxThreshold.get i).toNat < (v.get i).toNat →
      (v.get i).toNat < (s.comparator.minThreshold.get i).toNat →
      t.comparator.lastState.get i = .known (if l = .on then .off else .on)) ∧
    ((v.get i).toNat ≤ (s.comparator.maxThreshold.get i).toNat → t.comparator.lastState.get i = .known .on) ∧
    ((s.comparator.minThreshold.get i).toNat ≤ (v.get i).toNat → t.comparator.lastState.get i = .known .off)

/-- R123. With min = max = m a SensorControlsValve channel goes to OFF above m, to ON below m and holds at m. -/
def Obligations.EqualThresholdsHoldAtValue : Prop :=
  ∀ (s t : State) (v : Six Word) (i : Fin 6) (l : Level) (m : Word),
    exec (.hystEval v) s = .next t → s.comparator.operation.get i = .sensorControlsValve →
    s.comparator.lastState.get i = .known l →
    s.comparator.minThreshold.get i = m → s.comparator.maxThreshold.get i = m →
    (m.toNat < (v.get i).toNat → t.comparator.lastState.get i = .known .off) ∧
    ((v.get i).toNat < m.toNat → t.comparator.lastState.get i = .known .on) ∧
    (v.get i = m → t.comparator.lastState.get i = .known l)

/-- R124. Over any number of passes a SensorControlsValve channel that is ON stays ON while every value is at most max, and one that
is OFF stays OFF while every value is at least min, whatever the other channels do. -/
def Obligations.HysteresisIsStable : Prop :=
  ∀ (s t : State) (vs : List (Six Word)) (i : Fin 6), s.comparator.operation.get i = .sensorControlsValve →
    runOps (vs.map .hystEval) s = .next t →
    (s.comparator.lastState.get i = .known .on →
      (∀ v ∈ vs, (v.get i).toNat ≤ (s.comparator.maxThreshold.get i).toNat) →
      t.comparator.lastState.get i = .known .on) ∧
    (s.comparator.lastState.get i = .known .off →
      (∀ v ∈ vs, (s.comparator.minThreshold.get i).toNat ≤ (v.get i).toNat) →
      t.comparator.lastState.get i = .known .off)

/-- R128, R144. After CFG_WRITE ch with a mode's name or its code, whatever completes in between but a CFG_WRITE to ch and a RESET,
CFG_READ ch returns exactly what was written. -/
def Obligations.ConfigRoundTrip : Prop :=
  ∀ (s t : State) (ch : Nat) (op : ModeOperand) (m : OperationMode) (mn mx : Word) (between : List Instr), ch < 6 →
    (op = .named m ∨ (CodesDistinct s.params.opmodeCode ∧ op = .code (modeCode s.params.opmodeCode m))) →
    (∀ i ∈ between, i ≠ .reset ∧ ∀ op' a b, i ≠ .cfgWrite ch op' a b) →
    runOps (.cfgWrite ch op mn mx :: between) s = .next t →
    exec (.cfgRead ch) t = .next { t with result := .config { op := m, min := mn, max := mx } }

/-! ## Reset and boot (spec/70_reset_and_hazards.md) -/

/-- R144, R146. RESET completes in every state: WaitSync1, INIT_CONFIG in every channel, every `last` Unset, `any_on` false; the
valve pins keep their levels and what was handed out or sent stays. What declared_len, count and buf then hold is not said. -/
def Obligations.ResetOperation : Prop :=
  ∀ s : State, ∃ t, exec .reset s = .next t ∧ t.codec.rxState = .waitSync1 ∧
    (∀ i, t.comparator.operation.get i = (s.params.initConfig.get i).op ∧
      t.comparator.minThreshold.get i = (s.params.initConfig.get i).min ∧
      t.comparator.maxThreshold.get i = (s.params.initConfig.get i).max ∧
      t.comparator.lastState.get i = .unset) ∧
    t.comparator.anyOn = false ∧ t.valve = s.valve ∧ t.frames = s.frames ∧ t.radio = s.radio ∧ t.result = .none ∧
    t.held = s.held ∧ SameInputs s t

/-- R36. The state after reset: WaitSync1, the configuration INIT_CONFIG, every `last` Unset, `any_on` false. -/
def Obligations.ResetStateValues : Prop :=
  State.reset.codec.rxState = .waitSync1 ∧
    (∀ i, State.reset.comparator.operation.get i = (State.reset.params.initConfig.get i).op ∧
      State.reset.comparator.minThreshold.get i = (State.reset.params.initConfig.get i).min ∧
      State.reset.comparator.maxThreshold.get i = (State.reset.params.initConfig.get i).max ∧
      State.reset.comparator.lastState.get i = .unset) ∧
    State.reset.comparator.anyOn = false

/-- R144's corner case, R79. A RESET abandons a frame under construction: from any state, the next wire frame is handed out alone. -/
def Obligations.ResetAbandonsPartialFrame : Prop :=
  ∀ (s : State) (cmd : Byte) (payload : List Byte), payload.length + 1 ≤ s.maxPacketSize →
    ∃ t, runOps (.reset :: rxBytes (wireFrame cmd payload)) s = .next t ∧
      t.frames = s.frames ++
        [{ commandByte := cmd, payload := payload, payloadLength := BitVec.ofNat 8 payload.length }]

/-- R145, R125. After RESET and a STATE_LOAD of every channel, no pass is refused, whatever the configuration and the samples. -/
def Obligations.BootSequenceMakesPassesComplete : Prop :=
  ∀ (s : State) (l : Six Level) (v : Six Word),
    ∃ t, runOps [.reset, .stateLoad 0 l.c0, .stateLoad 1 l.c1, .stateLoad 2 l.c2, .stateLoad 3 l.c3, .stateLoad 4 l.c4,
      .stateLoad 5 l.c5, .hystEval v] s = .next t ∧ SensorsKnown t ∧ ∀ i, t.comparator.lastState.get i = .known (t.valve.get i)

/-! ## Whole-machine rules -/

/-- R31, R34, R127. Who writes what: an operation that changes a piece of block state is one of its writers. -/
def Obligations.OnlyWritersWrite : Prop :=
  ∀ (i : Instr) (s t : State), exec i s = .next t →
    (t.codec ≠ s.codec → i = .reset ∨ ∃ b, i = .rxByte b) ∧
    (∀ j : Fin 6, t.comparator.operation.get j ≠ s.comparator.operation.get j ∨
        t.comparator.minThreshold.get j ≠ s.comparator.minThreshold.get j ∨
        t.comparator.maxThreshold.get j ≠ s.comparator.maxThreshold.get j →
      i = .reset ∨ ∃ op mn mx, i = .cfgWrite j.val op mn mx) ∧
    (∀ j : Fin 6, t.comparator.lastState.get j ≠ s.comparator.lastState.get j →
      i = .reset ∨ (∃ l, i = .stateLoad j.val l) ∨ ∃ v, i = .hystEval v) ∧
    (t.comparator.anyOn ≠ s.comparator.anyOn → i = .reset ∨ ∃ v, i = .hystEval v) ∧
    (∀ j : Fin 6, t.valve.get j ≠ s.valve.get j → (∃ l, i = .stateLoad j.val l) ∨ ∃ v, i = .hystEval v) ∧
    SameInputs s t

/-- R43, R51, R80. Outputs cannot be undone and appear in order: an operation keeps all that was handed out and sent; only RX_BYTE
adds a frame, only TX_FRAME adds radio events. -/
def Obligations.OutputsOnlyGrow : Prop :=
  ∀ (i : Instr) (s t : State), exec i s = .next t →
    (∃ fs, t.frames = s.frames ++ fs ∧ fs.length ≤ 1 ∧ (fs ≠ [] → ∃ b, i = .rxByte b)) ∧
    (∃ es, t.radio = s.radio ++ es ∧ (es ≠ [] → ∃ cmd p, i = .txFrame cmd p))

/-- R29. Unset is a reset-only value: once a channel's `last` is known, only a RESET makes it Unset again. -/
def Obligations.UnsetOnlyByReset : Prop :=
  ∀ (i : Instr) (s t : State) (j : Fin 6), exec i s = .next t → s.comparator.lastState.get j ≠ .unset →
    t.comparator.lastState.get j = .unset → i = .reset

/-- R143. The block has one way to wait: an operation that sets the mark of a hold is a TX_FRAME while tx_busy is true. -/
def Obligations.OnlyTxFrameHolds : Prop :=
  ∀ (i : Instr) (s t : State), exec i s = .next t → s.held = false → t.held = true →
    (∃ cmd p, i = .txFrame cmd p) ∧ s.txBusy = true

/-- R82, R94. What is received does not depend on what else the caller does in between: leaving out every operation but RX_BYTE and
RESET changes neither the frames handed out nor the codec. -/
def Obligations.OtherOperationsDoNotDisturbReceive : Prop :=
  ∀ (ops : List Instr) (s t : State), runOps ops s = .next t →
    ∃ t', runOps (ops.filter feedsCodec) s = .next t' ∧ t'.frames = t.frames ∧ t'.codec = t.codec

/-- R131, R130. OPSEL 0xA to 0xF are refused in every state. -/
def Obligations.ReservedSelectorsRefused : Prop :=
  ∀ s : State,
    exec .reservedOpA s = .refused .reservedOperation ∧ exec .reservedOpB s = .refused .reservedOperation ∧
    exec .reservedOpC s = .refused .reservedOperation ∧ exec .reservedOpD s = .refused .reservedOperation ∧
    exec .reservedOpE s = .refused .reservedOperation ∧ exec .reservedOpF s = .refused .reservedOperation

/-! ## Steps, encodings, invariant -/

/-- R10, R66. When the caller's next request decodes to an instruction, the step is that instruction's `exec`, in the state in which
the radio has moved and no hold is marked, and then the caller goes on unless the operation is held. The request queue and the
radio's move are the model's (logs 5, 6, 7). -/
def Obligations.StepRunsDecodedInstruction : Prop :=
  ∀ (s : State) (r : Request) (rest : List Request) (i : Instr), s.caller = r :: rest → decodeRequest r = .ok i →
    (∀ t, exec i s.beginStep = .next t →
      step s = .next (if t.held then t else { t with caller := rest })) ∧
    (∀ q, exec i s.beginStep = .refused q → step s = .refused q) ∧
    s.beginStep =
      { s with
        held := false
        txBusy := s.txBusyNext.headD s.txBusy
        txBusyNext := s.txBusyNext.tail }

/-- The model's choice (logs 5, 19): a step without an operation leaves all but the radio's input and the mark of a hold, and a
request that encodes no operation is refused by name. -/
def Obligations.StepWithoutOperation : Prop :=
  (∀ s : State, s.caller = [] → step s = .next s.beginStep) ∧
  (∀ (s : State) (r : Request) (rest : List Request) (e : DecodeError), s.caller = r :: rest → decodeRequest r = .error e →
    step s = .refused (.malformedRequest e))

/-- Decoding an encoded well-formed instruction gives it back, with the bytes after it, for every instruction. -/
def Obligations.DecodeEncode : Prop :=
  ∀ (i : Instr) (rest : List Byte), i.wellFormed = true →
    decode (encode i).format ((encode i).bytes ++ rest) = .ok (i, rest)

/-- What the decoder accepts is an encoding: the bytes it reads are those of the instruction it answers, which is well formed, so no
bit of a request is dropped. -/
def Obligations.DecodedBytesAreTheEncoding : Prop :=
  ∀ (f : Format) (bs rest : List Byte) (i : Instr), decode f bs = .ok (i, rest) →
    i.wellFormed = true ∧ (encode i).format = f ∧ bs = (encode i).bytes ++ rest

/-- R59, R63, R64, with two choices of the model. The selector codes and the command bytes are the spec's encodings; the operand
bytes of the 16-bit words follow the layout of log 2, and reading the 8-bit word 0x0A as a selector and not as a command byte is
log 4's (both DESIGN CHOICE). -/
def Obligations.TableWordsDecode : Prop :=
  decodeTableWord 4 0b0000 = some .reset ∧
  decodeTableWord 16 0b10101010_00000001 = some (.rxByte 0xAA#8) ∧
  decodeTableWord 16 0b10010000_00000011 = some (.cmdDecode 0x90#8) ∧
  decodeTableWord 16 0b00000101_00000111 = some (.cfgRead 5) ∧
  decodeTableWord 8 0b00001010 = some .reservedOpA ∧
  decodeTableWord 8 0b11_10_0011 = some (.sendSamples .broadcast .module) ∧
  decodeTableWord 8 0b10_01_0101 = some (.setControlConfig .endpoint .software) ∧
  decodeTableWord 8 0b01_00_1001 = some (.setTimeout .router .router) ∧
  decodeTableWord 8 0b11_11_1111 = some (.reservedIdF .broadcast .reserved)

/-- The invariant holds at reset. -/
def Obligations.InvariantAtReset : Prop := Inv State.reset

/-- Every step keeps the invariant (R22, R33, R54, R55, R61, R86, R90): the codec's law, the buffer's canonical form and bounds, the
valve pins at the known levels, whole frames handed out, whole packets of origin MODULE sent. -/
def Obligations.StepKeepsInvariant : Prop :=
  ∀ s t : State, Inv s → step s = .next t → Inv t
end

