-- ==== Sys2Proof/Laws/Decode.lean ====
section
/-! SUPPORT. The codes of the named values and their readings undo each other (R57 to R60), and the small laws of the reader. -/

namespace Sys2Proof

@[simp] theorem destOfCode_destCode (d : Dest) : destOfCode (destCode d) = d := by cases d <;> rfl

@[simp] theorem destCode_destOfCode (c : BitVec 2) : destCode (destOfCode c) = c := by revert c; decide

@[simp] theorem originOfCode_originCode (o : Origin) : originOfCode (originCode o) = o := by cases o <;> rfl

@[simp] theorem originCode_originOfCode (c : BitVec 2) : originCode (originOfCode c) = c := by revert c; decide

@[simp] theorem idOfCode_idCode (k : CommandId) : idOfCode (idCode k) = k := by cases k <;> rfl

@[simp] theorem idCode_idOfCode (c : BitVec 4) : idCode (idOfCode c) = c := by revert c; decide

@[simp] theorem destBits_packByte (d o : BitVec 2) (k : BitVec 4) : destBits (packByte d o k) = d := by
  revert d o k; decide

@[simp] theorem originBits_packByte (d o : BitVec 2) (k : BitVec 4) : originBits (packByte d o k) = o := by
  revert d o k; decide

@[simp] theorem idBits_packByte (d o : BitVec 2) (k : BitVec 4) : idBits (packByte d o k) = k := by
  revert d o k; decide

@[simp] theorem andThen_ok {α β : Type} (a : α) (bs : List Byte) (f : α → List Byte → Reading β) :
    andThen (.ok (a, bs)) f = f a bs := rfl

@[simp] theorem andThen_error {α β : Type} (e : DecodeError) (f : α → List Byte → Reading β) :
    andThen (.error e) f = .error e := rfl

/-- What a reading made of two can do when it succeeds. -/
theorem andThen_cases {α β : Type} {r : Reading α} {f : α → List Byte → Reading β} {x : β × List Byte}
    (h : andThen r f = .ok x) : ∃ a bs, r = .ok (a, bs) ∧ f a bs = .ok x := by
  cases r with
  | ok p => exact ⟨p.1, p.2, rfl, h⟩
  | error e => cases h

@[simp] theorem readByte_cons (b : Byte) (bs : List Byte) : readByte (b :: bs) = .ok (b, bs) := rfl

end Sys2Proof
end

