-- ==== Sys2Proof/Laws/State.lean ====
section
/-! SUPPORT. One lemma for each field of the state and each named update of it, so that no later proof unfolds an update. -/

namespace Sys2Proof.Machine

section putBuf

variable (s : State) (k : Nat) (b : Byte)

@[simp] theorem State.putBuf_codec : (s.putBuf k b).codec = { s.codec with buf := s.codec.buf.set k b } := rfl
@[simp] theorem State.putBuf_comparator : (s.putBuf k b).comparator = s.comparator := rfl
@[simp] theorem State.putBuf_valve : (s.putBuf k b).valve = s.valve := rfl
@[simp] theorem State.putBuf_frames : (s.putBuf k b).frames = s.frames := rfl
@[simp] theorem State.putBuf_radio : (s.putBuf k b).radio = s.radio := rfl
@[simp] theorem State.putBuf_result : (s.putBuf k b).result = s.result := rfl
@[simp] theorem State.putBuf_txBusy : (s.putBuf k b).txBusy = s.txBusy := rfl
@[simp] theorem State.putBuf_txBusyNext : (s.putBuf k b).txBusyNext = s.txBusyNext := rfl
@[simp] theorem State.putBuf_caller : (s.putBuf k b).caller = s.caller := rfl
@[simp] theorem State.putBuf_held : (s.putBuf k b).held = s.held := rfl
@[simp] theorem State.putBuf_params : (s.putBuf k b).params = s.params := rfl
@[simp] theorem State.putBuf_epoch : (s.putBuf k b).epoch = s.epoch := rfl

end putBuf

section enterRx

variable (s : State) (r : RxState)

@[simp] theorem State.enterRx_codec : (s.enterRx r).codec = { s.codec with rxState := r } := rfl
@[simp] theorem State.enterRx_comparator : (s.enterRx r).comparator = s.comparator := rfl
@[simp] theorem State.enterRx_valve : (s.enterRx r).valve = s.valve := rfl
@[simp] theorem State.enterRx_frames : (s.enterRx r).frames = s.frames := rfl
@[simp] theorem State.enterRx_radio : (s.enterRx r).radio = s.radio := rfl
@[simp] theorem State.enterRx_result : (s.enterRx r).result = s.result := rfl
@[simp] theorem State.enterRx_txBusy : (s.enterRx r).txBusy = s.txBusy := rfl
@[simp] theorem State.enterRx_txBusyNext : (s.enterRx r).txBusyNext = s.txBusyNext := rfl
@[simp] theorem State.enterRx_caller : (s.enterRx r).caller = s.caller := rfl
@[simp] theorem State.enterRx_held : (s.enterRx r).held = s.held := rfl
@[simp] theorem State.enterRx_params : (s.enterRx r).params = s.params := rfl
@[simp] theorem State.enterRx_epoch : (s.enterRx r).epoch = s.epoch := rfl

end enterRx

section setDeclaredLen

variable (s : State) (n : Byte)

@[simp] theorem State.setDeclaredLen_codec : (s.setDeclaredLen n).codec = { s.codec with declaredLen := n } := rfl
@[simp] theorem State.setDeclaredLen_comparator : (s.setDeclaredLen n).comparator = s.comparator := rfl
@[simp] theorem State.setDeclaredLen_valve : (s.setDeclaredLen n).valve = s.valve := rfl
@[simp] theorem State.setDeclaredLen_frames : (s.setDeclaredLen n).frames = s.frames := rfl
@[simp] theorem State.setDeclaredLen_radio : (s.setDeclaredLen n).radio = s.radio := rfl
@[simp] theorem State.setDeclaredLen_result : (s.setDeclaredLen n).result = s.result := rfl
@[simp] theorem State.setDeclaredLen_txBusy : (s.setDeclaredLen n).txBusy = s.txBusy := rfl
@[simp] theorem State.setDeclaredLen_txBusyNext : (s.setDeclaredLen n).txBusyNext = s.txBusyNext := rfl
@[simp] theorem State.setDeclaredLen_caller : (s.setDeclaredLen n).caller = s.caller := rfl
@[simp] theorem State.setDeclaredLen_held : (s.setDeclaredLen n).held = s.held := rfl
@[simp] theorem State.setDeclaredLen_params : (s.setDeclaredLen n).params = s.params := rfl
@[simp] theorem State.setDeclaredLen_epoch : (s.setDeclaredLen n).epoch = s.epoch := rfl

end setDeclaredLen

section setCount

variable (s : State) (n : Byte)

@[simp] theorem State.setCount_codec : (s.setCount n).codec = { s.codec with count := n } := rfl
@[simp] theorem State.setCount_comparator : (s.setCount n).comparator = s.comparator := rfl
@[simp] theorem State.setCount_valve : (s.setCount n).valve = s.valve := rfl
@[simp] theorem State.setCount_frames : (s.setCount n).frames = s.frames := rfl
@[simp] theorem State.setCount_radio : (s.setCount n).radio = s.radio := rfl
@[simp] theorem State.setCount_result : (s.setCount n).result = s.result := rfl
@[simp] theorem State.setCount_txBusy : (s.setCount n).txBusy = s.txBusy := rfl
@[simp] theorem State.setCount_txBusyNext : (s.setCount n).txBusyNext = s.txBusyNext := rfl
@[simp] theorem State.setCount_caller : (s.setCount n).caller = s.caller := rfl
@[simp] theorem State.setCount_held : (s.setCount n).held = s.held := rfl
@[simp] theorem State.setCount_params : (s.setCount n).params = s.params := rfl
@[simp] theorem State.setCount_epoch : (s.setCount n).epoch = s.epoch := rfl

end setCount

section returning

variable (s : State) (r : Result)

@[simp] theorem State.returning_codec : (s.returning r).codec = s.codec := rfl
@[simp] theorem State.returning_comparator : (s.returning r).comparator = s.comparator := rfl
@[simp] theorem State.returning_valve : (s.returning r).valve = s.valve := rfl
@[simp] theorem State.returning_frames : (s.returning r).frames = s.frames := rfl
@[simp] theorem State.returning_radio : (s.returning r).radio = s.radio := rfl
@[simp] theorem State.returning_result : (s.returning r).result = r := rfl
@[simp] theorem State.returning_txBusy : (s.returning r).txBusy = s.txBusy := rfl
@[simp] theorem State.returning_txBusyNext : (s.returning r).txBusyNext = s.txBusyNext := rfl
@[simp] theorem State.returning_caller : (s.returning r).caller = s.caller := rfl
@[simp] theorem State.returning_held : (s.returning r).held = s.held := rfl
@[simp] theorem State.returning_params : (s.returning r).params = s.params := rfl
@[simp] theorem State.returning_epoch : (s.returning r).epoch = s.epoch := rfl

end returning

section handOut

variable (s : State) (f : Frame)

@[simp] theorem State.handOut_codec : (s.handOut f).codec = s.codec := rfl
@[simp] theorem State.handOut_comparator : (s.handOut f).comparator = s.comparator := rfl
@[simp] theorem State.handOut_valve : (s.handOut f).valve = s.valve := rfl
@[simp] theorem State.handOut_frames : (s.handOut f).frames = s.frames ++ [f] := rfl
@[simp] theorem State.handOut_radio : (s.handOut f).radio = s.radio := rfl
@[simp] theorem State.handOut_result : (s.handOut f).result = .frame f := rfl
@[simp] theorem State.handOut_txBusy : (s.handOut f).txBusy = s.txBusy := rfl
@[simp] theorem State.handOut_txBusyNext : (s.handOut f).txBusyNext = s.txBusyNext := rfl
@[simp] theorem State.handOut_caller : (s.handOut f).caller = s.caller := rfl
@[simp] theorem State.handOut_held : (s.handOut f).held = s.held := rfl
@[simp] theorem State.handOut_params : (s.handOut f).params = s.params := rfl
@[simp] theorem State.handOut_epoch : (s.handOut f).epoch = s.epoch := rfl

end handOut

section transmit

variable (s : State) (bytes : List Byte)

@[simp] theorem State.transmit_codec : (s.transmit bytes).codec = s.codec := rfl
@[simp] theorem State.transmit_comparator : (s.transmit bytes).comparator = s.comparator := rfl
@[simp] theorem State.transmit_valve : (s.transmit bytes).valve = s.valve := rfl
@[simp] theorem State.transmit_frames : (s.transmit bytes).frames = s.frames := rfl
@[simp] theorem State.transmit_radio : (s.transmit bytes).radio = s.radio ++ packetEvents bytes := rfl
@[simp] theorem State.transmit_result : (s.transmit bytes).result = s.result := rfl
@[simp] theorem State.transmit_txBusy : (s.transmit bytes).txBusy = s.txBusy := rfl
@[simp] theorem State.transmit_txBusyNext : (s.transmit bytes).txBusyNext = s.txBusyNext := rfl
@[simp] theorem State.transmit_caller : (s.transmit bytes).caller = s.caller := rfl
@[simp] theorem State.transmit_held : (s.transmit bytes).held = s.held := rfl
@[simp] theorem State.transmit_params : (s.transmit bytes).params = s.params := rfl
@[simp] theorem State.transmit_epoch : (s.transmit bytes).epoch = s.epoch := rfl

end transmit

section holding

variable (s : State)

@[simp] theorem State.holding_codec : (s.holding).codec = s.codec := rfl
@[simp] theorem State.holding_comparator : (s.holding).comparator = s.comparator := rfl
@[simp] theorem State.holding_valve : (s.holding).valve = s.valve := rfl
@[simp] theorem State.holding_frames : (s.holding).frames = s.frames := rfl
@[simp] theorem State.holding_radio : (s.holding).radio = s.radio := rfl
@[simp] theorem State.holding_result : (s.holding).result = s.result := rfl
@[simp] theorem State.holding_txBusy : (s.holding).txBusy = s.txBusy := rfl
@[simp] theorem State.holding_txBusyNext : (s.holding).txBusyNext = s.txBusyNext := rfl
@[simp] theorem State.holding_caller : (s.holding).caller = s.caller := rfl
@[simp] theorem State.holding_held : (s.holding).held = true := rfl
@[simp] theorem State.holding_params : (s.holding).params = s.params := rfl
@[simp] theorem State.holding_epoch : (s.holding).epoch = s.epoch := rfl

end holding

section writeConfig

variable (s : State) (i : Fin 6) (c : ChannelConfig)

@[simp] theorem State.writeConfig_codec : (s.writeConfig i c).codec = s.codec := rfl
@[simp] theorem State.writeConfig_comparator : (s.writeConfig i c).comparator = { s.comparator with
        operation := s.comparator.operation.set i c.op
        minThreshold := s.comparator.minThreshold.set i c.min
        maxThreshold := s.comparator.maxThreshold.set i c.max } := rfl
@[simp] theorem State.writeConfig_valve : (s.writeConfig i c).valve = s.valve := rfl
@[simp] theorem State.writeConfig_frames : (s.writeConfig i c).frames = s.frames := rfl
@[simp] theorem State.writeConfig_radio : (s.writeConfig i c).radio = s.radio := rfl
@[simp] theorem State.writeConfig_result : (s.writeConfig i c).result = s.result := rfl
@[simp] theorem State.writeConfig_txBusy : (s.writeConfig i c).txBusy = s.txBusy := rfl
@[simp] theorem State.writeConfig_txBusyNext : (s.writeConfig i c).txBusyNext = s.txBusyNext := rfl
@[simp] theorem State.writeConfig_caller : (s.writeConfig i c).caller = s.caller := rfl
@[simp] theorem State.writeConfig_held : (s.writeConfig i c).held = s.held := rfl
@[simp] theorem State.writeConfig_params : (s.writeConfig i c).params = s.params := rfl
@[simp] theorem State.writeConfig_epoch : (s.writeConfig i c).epoch = s.epoch := rfl

end writeConfig

section loadLevel

variable (s : State) (i : Fin 6) (l : Level)

@[simp] theorem State.loadLevel_codec : (s.loadLevel i l).codec = s.codec := rfl
@[simp] theorem State.loadLevel_comparator : (s.loadLevel i l).comparator = { s.comparator with lastState := s.comparator.lastState.set i (.known l) } := rfl
@[simp] theorem State.loadLevel_valve : (s.loadLevel i l).valve = s.valve.set i l := rfl
@[simp] theorem State.loadLevel_frames : (s.loadLevel i l).frames = s.frames := rfl
@[simp] theorem State.loadLevel_radio : (s.loadLevel i l).radio = s.radio := rfl
@[simp] theorem State.loadLevel_result : (s.loadLevel i l).result = s.result := rfl
@[simp] theorem State.loadLevel_txBusy : (s.loadLevel i l).txBusy = s.txBusy := rfl
@[simp] theorem State.loadLevel_txBusyNext : (s.loadLevel i l).txBusyNext = s.txBusyNext := rfl
@[simp] theorem State.loadLevel_caller : (s.loadLevel i l).caller = s.caller := rfl
@[simp] theorem State.loadLevel_held : (s.loadLevel i l).held = s.held := rfl
@[simp] theorem State.loadLevel_params : (s.loadLevel i l).params = s.params := rfl
@[simp] theorem State.loadLevel_epoch : (s.loadLevel i l).epoch = s.epoch := rfl

end loadLevel

section endPass

variable (s : State) (new : Six Level) (anyOn : Bool)

@[simp] theorem State.endPass_codec : (s.endPass new anyOn).codec = s.codec := rfl
@[simp] theorem State.endPass_comparator : (s.endPass new anyOn).comparator = { s.comparator with
        lastState := Six.tabulate (fun i => .known (new.get i))
        anyOn := anyOn } := rfl
@[simp] theorem State.endPass_valve : (s.endPass new anyOn).valve = new := rfl
@[simp] theorem State.endPass_frames : (s.endPass new anyOn).frames = s.frames := rfl
@[simp] theorem State.endPass_radio : (s.endPass new anyOn).radio = s.radio := rfl
@[simp] theorem State.endPass_result : (s.endPass new anyOn).result = s.result := rfl
@[simp] theorem State.endPass_txBusy : (s.endPass new anyOn).txBusy = s.txBusy := rfl
@[simp] theorem State.endPass_txBusyNext : (s.endPass new anyOn).txBusyNext = s.txBusyNext := rfl
@[simp] theorem State.endPass_caller : (s.endPass new anyOn).caller = s.caller := rfl
@[simp] theorem State.endPass_held : (s.endPass new anyOn).held = s.held := rfl
@[simp] theorem State.endPass_params : (s.endPass new anyOn).params = s.params := rfl
@[simp] theorem State.endPass_epoch : (s.endPass new anyOn).epoch = s.epoch := rfl

end endPass

section resetBlock

variable (s : State)

@[simp] theorem State.resetBlock_codec : (s.resetBlock).codec = s.resetCodec := rfl
@[simp] theorem State.resetBlock_comparator : (s.resetBlock).comparator = s.resetComparator := rfl
@[simp] theorem State.resetBlock_valve : (s.resetBlock).valve = s.valve := rfl
@[simp] theorem State.resetBlock_frames : (s.resetBlock).frames = s.frames := rfl
@[simp] theorem State.resetBlock_radio : (s.resetBlock).radio = s.radio := rfl
@[simp] theorem State.resetBlock_result : (s.resetBlock).result = s.result := rfl
@[simp] theorem State.resetBlock_txBusy : (s.resetBlock).txBusy = s.txBusy := rfl
@[simp] theorem State.resetBlock_txBusyNext : (s.resetBlock).txBusyNext = s.txBusyNext := rfl
@[simp] theorem State.resetBlock_caller : (s.resetBlock).caller = s.caller := rfl
@[simp] theorem State.resetBlock_held : (s.resetBlock).held = s.held := rfl
@[simp] theorem State.resetBlock_params : (s.resetBlock).params = s.params := rfl
@[simp] theorem State.resetBlock_epoch : (s.resetBlock).epoch = s.epoch + 1 := rfl

end resetBlock

section presenting

variable (s : State) (r : Request)

@[simp] theorem State.presenting_codec : (s.presenting r).codec = s.codec := rfl
@[simp] theorem State.presenting_comparator : (s.presenting r).comparator = s.comparator := rfl
@[simp] theorem State.presenting_valve : (s.presenting r).valve = s.valve := rfl
@[simp] theorem State.presenting_frames : (s.presenting r).frames = s.frames := rfl
@[simp] theorem State.presenting_radio : (s.presenting r).radio = s.radio := rfl
@[simp] theorem State.presenting_result : (s.presenting r).result = s.result := rfl
@[simp] theorem State.presenting_txBusy : (s.presenting r).txBusy = s.txBusy := rfl
@[simp] theorem State.presenting_txBusyNext : (s.presenting r).txBusyNext = s.txBusyNext := rfl
@[simp] theorem State.presenting_caller : (s.presenting r).caller = r :: s.caller := rfl
@[simp] theorem State.presenting_held : (s.presenting r).held = s.held := rfl
@[simp] theorem State.presenting_params : (s.presenting r).params = s.params := rfl
@[simp] theorem State.presenting_epoch : (s.presenting r).epoch = s.epoch := rfl

end presenting

/-! ## What a step does around an operation -/

section around

variable (s : State)

@[simp] theorem State.sampleRadio_codec : s.sampleRadio.codec = s.codec := by
  unfold State.sampleRadio; split <;> rfl
@[simp] theorem State.sampleRadio_comparator : s.sampleRadio.comparator = s.comparator := by
  unfold State.sampleRadio; split <;> rfl
@[simp] theorem State.sampleRadio_valve : s.sampleRadio.valve = s.valve := by
  unfold State.sampleRadio; split <;> rfl
@[simp] theorem State.sampleRadio_frames : s.sampleRadio.frames = s.frames := by
  unfold State.sampleRadio; split <;> rfl
@[simp] theorem State.sampleRadio_radio : s.sampleRadio.radio = s.radio := by
  unfold State.sampleRadio; split <;> rfl
@[simp] theorem State.sampleRadio_result : s.sampleRadio.result = s.result := by
  unfold State.sampleRadio; split <;> rfl
@[simp] theorem State.sampleRadio_caller : s.sampleRadio.caller = s.caller := by
  unfold State.sampleRadio; split <;> rfl
@[simp] theorem State.sampleRadio_held : s.sampleRadio.held = s.held := by
  unfold State.sampleRadio; split <;> rfl
@[simp] theorem State.sampleRadio_params : s.sampleRadio.params = s.params := by
  unfold State.sampleRadio; split <;> rfl
@[simp] theorem State.sampleRadio_epoch : s.sampleRadio.epoch = s.epoch := by
  unfold State.sampleRadio; split <;> rfl
@[simp] theorem State.beginStep_codec : s.beginStep.codec = s.codec := State.sampleRadio_codec s
@[simp] theorem State.beginStep_comparator : s.beginStep.comparator = s.comparator := State.sampleRadio_comparator s
@[simp] theorem State.beginStep_valve : s.beginStep.valve = s.valve := State.sampleRadio_valve s
@[simp] theorem State.beginStep_frames : s.beginStep.frames = s.frames := State.sampleRadio_frames s
@[simp] theorem State.beginStep_radio : s.beginStep.radio = s.radio := State.sampleRadio_radio s
@[simp] theorem State.beginStep_result : s.beginStep.result = s.result := State.sampleRadio_result s
@[simp] theorem State.beginStep_txBusy : s.beginStep.txBusy = s.sampleRadio.txBusy := rfl
@[simp] theorem State.beginStep_txBusyNext : s.beginStep.txBusyNext = s.sampleRadio.txBusyNext := rfl
@[simp] theorem State.beginStep_caller : s.beginStep.caller = s.caller := State.sampleRadio_caller s
@[simp] theorem State.beginStep_held : s.beginStep.held = false := rfl
@[simp] theorem State.beginStep_params : s.beginStep.params = s.params := State.sampleRadio_params s
@[simp] theorem State.beginStep_epoch : s.beginStep.epoch = s.epoch := State.sampleRadio_epoch s
@[simp] theorem State.endStep_codec : s.endStep.codec = s.codec := by
  unfold State.endStep; split <;> rfl
@[simp] theorem State.endStep_comparator : s.endStep.comparator = s.comparator := by
  unfold State.endStep; split <;> rfl
@[simp] theorem State.endStep_valve : s.endStep.valve = s.valve := by
  unfold State.endStep; split <;> rfl
@[simp] theorem State.endStep_frames : s.endStep.frames = s.frames := by
  unfold State.endStep; split <;> rfl
@[simp] theorem State.endStep_radio : s.endStep.radio = s.radio := by
  unfold State.endStep; split <;> rfl
@[simp] theorem State.endStep_result : s.endStep.result = s.result := by
  unfold State.endStep; split <;> rfl
@[simp] theorem State.endStep_txBusy : s.endStep.txBusy = s.txBusy := by
  unfold State.endStep; split <;> rfl
@[simp] theorem State.endStep_txBusyNext : s.endStep.txBusyNext = s.txBusyNext := by
  unfold State.endStep; split <;> rfl
@[simp] theorem State.endStep_caller : s.endStep.caller = if s.held then s.caller else s.caller.tail := by
  unfold State.endStep; split <;> rfl
@[simp] theorem State.endStep_held : s.endStep.held = s.held := by
  unfold State.endStep; split <;> rfl
@[simp] theorem State.endStep_params : s.endStep.params = s.params := by
  unfold State.endStep; split <;> rfl
@[simp] theorem State.endStep_epoch : s.endStep.epoch = s.epoch := by
  unfold State.endStep; split <;> rfl

end around

end Sys2Proof.Machine
end

