-- ==== Sys2Proof/Laws/Memory.lean ====
section
/-! SUPPORT. The laws of the frame buffer: read after write, writes keep the canonical form and the bounds, and what the
primitives MemRead and MemWrite can do (R38). -/

namespace Sys2Proof.Machine

@[simp] theorem Memory.get_set_same (m : Memory) (k : Nat) (v : Byte) : (m.set k v).get k = some v := by
  induction m with
  | nil => simp [Memory.set, Memory.get]
  | cons c m ih =>
    obtain ⟨a, b⟩ := c
    simp only [Memory.set]
    split
    · simp [Memory.get]
    · split
      · simp [Memory.get]
      · next h => simp [Memory.get, Ne.symm h, ih]

@[simp] theorem Memory.get_set_other (m : Memory) {k j : Nat} (v : Byte) (h : j ≠ k) : (m.set k v).get j = m.get j := by
  induction m with
  | nil => simp [Memory.set, Memory.get, Ne.symm h]
  | cons c m ih =>
    obtain ⟨a, b⟩ := c
    simp only [Memory.set]
    split
    · simp [Memory.get, Ne.symm h]
    · split
      · next hk => subst hk; simp [Memory.get, Ne.symm h]
      · simp [Memory.get, ih]

/-- The entries of a buffer after a write are those before it and the one written. -/
theorem Memory.mem_set {m : Memory} {k : Nat} {v : Byte} {c : Host.Cell} (h : c ∈ m.set k v) : c = (k, v) ∨ c ∈ m := by
  induction m with
  | nil => simpa [Memory.set] using h
  | cons d m ih =>
    obtain ⟨a, b⟩ := d
    simp only [Memory.set] at h
    split at h
    · simpa using h
    · split at h
      · rcases List.mem_cons.mp h with h | h
        · exact .inl h
        · exact .inr (List.mem_cons_of_mem _ h)
      · rcases List.mem_cons.mp h with h | h
        · exact .inr (h ▸ List.mem_cons_self)
        · exact (ih h).imp_right (List.mem_cons_of_mem _)

/-- A buffer in canonical form behind a first entry: the rest is, and every later index is above. -/
theorem Memory.wf_cons {a : Nat} {b : Byte} {m : Memory} :
    Memory.wf ((a, b) :: m) = true ↔ Memory.wf m = true ∧ ∀ c ∈ m, a < c.1 := by
  induction m generalizing a b with
  | nil => simp [Memory.wf]
  | cons d m ih =>
    obtain ⟨a', b'⟩ := d
    have hstep : Memory.wf ((a, b) :: (a', b') :: m) = (decide (a < a') && Memory.wf ((a', b') :: m)) := rfl
    rw [hstep, Bool.and_eq_true, decide_eq_true_eq]
    constructor
    · rintro ⟨hlt, hwf⟩
      refine ⟨hwf, fun c hc => ?_⟩
      rcases List.mem_cons.mp hc with rfl | hc
      · exact hlt
      · exact lt_trans hlt ((ih.mp hwf).2 c hc)
    · rintro ⟨hwf, hall⟩
      exact ⟨hall (a', b') List.mem_cons_self, hwf⟩

/-- A write keeps the canonical form. -/
theorem Memory.wf_set {m : Memory} (k : Nat) (v : Byte) (h : m.wf = true) : (m.set k v).wf = true := by
  induction m with
  | nil => rfl
  | cons c m ih =>
    obtain ⟨a, b⟩ := c
    obtain ⟨hm, hall⟩ := Memory.wf_cons.mp h
    simp only [Memory.set]
    split
    · next hk =>
      refine Memory.wf_cons.mpr ⟨h, fun c hc => ?_⟩
      rcases List.mem_cons.mp hc with rfl | hc
      · exact hk
      · exact lt_trans hk (hall c hc)
    · split
      · next hk => subst hk; exact Memory.wf_cons.mpr ⟨hm, hall⟩
      · next hlt hne =>
        refine Memory.wf_cons.mpr ⟨ih hm, fun c hc => ?_⟩
        rcases Memory.mem_set hc with rfl | hc
        · show a < k
          omega
        · exact hall c hc

theorem State.maxPacketSize_pos (s : State) : 0 < s.maxPacketSize := Nat.succ_pos _

theorem State.maxPacketSize_le (s : State) : s.maxPacketSize ≤ 255 := by
  have := s.params.maxPayload.isLt
  simp only [State.maxPacketSize, Params.maxPacketSize]
  omega

/-- MemRead inside the buffer answers the entry (R38). -/
theorem memRead_of_lt {s : State} {k : Nat} (h : k < s.maxPacketSize) : memRead s k = .ok (s.bufByte k) := if_pos h

/-- MemRead outside the buffer is an overrun (R38). -/
theorem memRead_of_ge {s : State} {k : Nat} (h : ¬ k < s.maxPacketSize) : memRead s k = .error .bufferOverrun := if_neg h

/-- MemWrite inside the buffer writes the entry (R38). -/
theorem memWrite_of_lt {s : State} {k : Nat} {b : Byte} (h : k < s.maxPacketSize) : memWrite s k b = .ok (s.putBuf k b) :=
  if_pos h

/-- MemWrite outside the buffer is an overrun (R38). -/
theorem memWrite_of_ge {s : State} {k : Nat} {b : Byte} (h : ¬ k < s.maxPacketSize) :
    memWrite s k b = .error .bufferOverrun := if_neg h

/-- A range inside the buffer is read entry by entry. -/
theorem memReadRange_of_le {s : State} (n k : Nat) (h : k + n ≤ s.maxPacketSize) :
    memReadRange s k n = .ok ((List.range' k n).map s.bufByte) := by
  induction n generalizing k with
  | zero => rfl
  | succ n ih =>
    simp only [memReadRange, memRead_of_lt (show k < s.maxPacketSize by omega), ih (k + 1) (by omega), List.range'_succ,
      List.map_cons]
    rfl

/-- An entry of `buf` after a MemWrite. -/
theorem State.bufByte_putBuf (s : State) (k j : Nat) (b : Byte) :
    (s.putBuf k b).bufByte j = if j = k then b else s.bufByte j := by
  unfold State.bufByte
  by_cases h : j = k
  · subst h; simp
  · simp [h]

/-- Only the codec's buffer and the count of resets decide what an entry of `buf` reads as. -/
theorem State.bufByte_congr {s t : State} (hb : t.codec.buf = s.codec.buf) (he : t.epoch = s.epoch) (k : Nat) :
    t.bufByte k = s.bufByte k := by
  simp [State.bufByte, hb, he]

end Sys2Proof.Machine
end

