-- ==== Sys2Proof/Laws/Six.lean ====
section
/-! SUPPORT. The laws of the six-entry registers: read after write, extensionality, the six values of a function of the channel,
and the channel an index names. -/

namespace Sys2Proof

variable {α : Type}

theorem fin6_cases (i : Fin 6) : i = 0 ∨ i = 1 ∨ i = 2 ∨ i = 3 ∨ i = 4 ∨ i = 5 := by
  omega

@[simp] theorem Six.get_zero (x : Six α) : x.get 0 = x.c0 := rfl
@[simp] theorem Six.get_one (x : Six α) : x.get 1 = x.c1 := rfl
@[simp] theorem Six.get_two (x : Six α) : x.get 2 = x.c2 := rfl
@[simp] theorem Six.get_three (x : Six α) : x.get 3 = x.c3 := rfl
@[simp] theorem Six.get_four (x : Six α) : x.get 4 = x.c4 := rfl
@[simp] theorem Six.get_five (x : Six α) : x.get 5 = x.c5 := rfl

@[simp] theorem Six.get_set_same (x : Six α) (i : Fin 6) (v : α) : (x.set i v).get i = v := by
  obtain rfl | rfl | rfl | rfl | rfl | rfl := fin6_cases i <;> rfl

@[simp] theorem Six.get_set_other (x : Six α) {i j : Fin 6} (v : α) (h : j ≠ i) : (x.set i v).get j = x.get j := by
  obtain rfl | rfl | rfl | rfl | rfl | rfl := fin6_cases i <;>
    obtain rfl | rfl | rfl | rfl | rfl | rfl := fin6_cases j <;> first | rfl | exact absurd rfl h

theorem Six.get_set (x : Six α) (i j : Fin 6) (v : α) : (x.set i v).get j = if j = i then v else x.get j := by
  by_cases h : j = i
  · subst h; simp
  · simp [h]

@[simp] theorem Six.get_tabulate (f : Fin 6 → α) (i : Fin 6) : (Six.tabulate f).get i = f i := by
  obtain rfl | rfl | rfl | rfl | rfl | rfl := fin6_cases i <;> rfl

theorem Six.ext_get {x y : Six α} (h : ∀ i, x.get i = y.get i) : x = y := by
  obtain ⟨a0, a1, a2, a3, a4, a5⟩ := x
  obtain ⟨b0, b1, b2, b3, b4, b5⟩ := y
  have h0 : a0 = b0 := h 0
  have h1 : a1 = b1 := h 1
  have h2 : a2 = b2 := h 2
  have h3 : a3 = b3 := h 3
  have h4 : a4 = b4 := h 4
  have h5 : a5 = b5 := h 5
  simp only [h0, h1, h2, h3, h4, h5]

@[simp] theorem Six.set_get (x : Six α) (i : Fin 6) : x.set i (x.get i) = x := by
  apply Six.ext_get
  intro j
  rw [Six.get_set]
  split
  · next h => rw [h]
  · rfl

/-- All six are there exactly when each is. -/
theorem Six.all?_eq_some {x : Six (Option α)} {y : Six α} : x.all? = some y ↔ ∀ i, x.get i = some (y.get i) := by
  obtain ⟨a0, a1, a2, a3, a4, a5⟩ := x
  constructor
  · intro h i
    simp only [Six.all?] at h
    split at h
    · cases h
      obtain rfl | rfl | rfl | rfl | rfl | rfl := fin6_cases i <;> rfl
    · cases h
  · intro h
    have h0 : a0 = some y.c0 := h 0
    have h1 : a1 = some y.c1 := h 1
    have h2 : a2 = some y.c2 := h 2
    have h3 : a3 = some y.c3 := h 3
    have h4 : a4 = some y.c4 := h 4
    have h5 : a5 = some y.c5 := h 5
    simp [Six.all?, h0, h1, h2, h3, h4, h5]

/-- One is missing exactly when all six are not there. -/
theorem Six.all?_eq_none {x : Six (Option α)} : x.all? = none ↔ ∃ i, x.get i = none := by
  obtain ⟨a0, a1, a2, a3, a4, a5⟩ := x
  constructor
  · intro h
    cases a0 with
    | none => exact ⟨0, rfl⟩
    | some _ =>
    cases a1 with
    | none => exact ⟨1, rfl⟩
    | some _ =>
    cases a2 with
    | none => exact ⟨2, rfl⟩
    | some _ =>
    cases a3 with
    | none => exact ⟨3, rfl⟩
    | some _ =>
    cases a4 with
    | none => exact ⟨4, rfl⟩
    | some _ =>
    cases a5 with
    | none => exact ⟨5, rfl⟩
    | some _ => simp [Six.all?] at h
  · rintro ⟨i, h⟩
    cases ha : (Six.all? ⟨a0, a1, a2, a3, a4, a5⟩ : Option (Six α)) with
    | none => rfl
    | some y => rw [Six.all?_eq_some.mp ha i] at h; cases h

namespace Machine

theorem channelOf_lt {ch : Nat} (h : ch < 6) : channelOf ch = some ⟨ch, h⟩ := dif_pos h

theorem channelOf_ge {ch : Nat} (h : ¬ ch < 6) : channelOf ch = none := dif_neg h

@[simp] theorem channelOf_val (i : Fin 6) : channelOf i.val = some i := channelOf_lt i.isLt

theorem channelOf_eq_some {ch : Nat} {i : Fin 6} (h : channelOf ch = some i) : i.val = ch := by
  unfold channelOf at h
  split at h
  · cases h; rfl
  · cases h

/-- Distinct codes are read back (D13). -/
theorem modeOfCode_modeCode {t : OpmodeCodes} (h : ∀ m m', modeCode t m = modeCode t m' → m = m') (m : OperationMode) :
    modeOfCode t (modeCode t m) = some m := by
  have e : ∀ m', (modeCode t m = modeCode t m') = (m = m') := fun m' => propext ⟨h m m', fun h => h ▸ rfl⟩
  simp only [modeOfCode, e]
  cases m <;> rfl

/-- A code that is no mode's is not read (R112). -/
theorem modeOfCode_eq_none {t : OpmodeCodes} {c : Word} (h : ∀ m, modeCode t m ≠ c) : modeOfCode t c = none := by
  simp only [modeOfCode, Ne.symm (h _), if_false]

/-- A pass has its six levels exactly when each channel has one. -/
theorem passLevels_eq_some {s : State} {value : Six Word} {new : Six Level} :
    s.passLevels value = some new ↔ ∀ i, s.channelLevel value i = some (new.get i) := by
  simp [State.passLevels, Six.all?_eq_some]

/-- A channel has no new level exactly when it is an Unset SensorControlsValve channel (R125). -/
theorem channelLevel_eq_none {s : State} {value : Six Word} {i : Fin 6} :
    s.channelLevel value i = none ↔
      s.comparator.operation.get i = .sensorControlsValve ∧ s.comparator.lastState.get i = .unset := by
  unfold State.channelLevel newLevel
  cases s.comparator.operation.get i <;> simp
  cases s.comparator.lastState.get i with
  | unset => simp [sensorLevel]
  | known l => cases l <;> simp [sensorLevel] <;> split <;> simp

/-- The flag of a pass (R120). -/
theorem anyOnOf_iff {new : Six Level} : anyOnOf new = true ↔ ∃ i, new.get i = .on := by
  constructor
  · intro h
    simp only [anyOnOf, Bool.or_eq_true, beq_iff_eq] at h
    rcases h with ((((h | h) | h) | h) | h) | h
    exacts [⟨0, h⟩, ⟨1, h⟩, ⟨2, h⟩, ⟨3, h⟩, ⟨4, h⟩, ⟨5, h⟩]
  · rintro ⟨i, h⟩
    obtain rfl | rfl | rfl | rfl | rfl | rfl := fin6_cases i <;> simp at h <;> simp [anyOnOf, h]

end Machine

end Sys2Proof
end

