-- ==== Sys2Proof/Laws/Exec.lean ====
section
/-! SUPPORT. What each meaning can do, said once: the frame handed out, the branches of a received byte, and the cases of `exec`
and of `step` when they answer a next state. -/

namespace Sys2Proof.Machine

/-! ## RX_BYTE -/

/-- The frame under construction, when its declared length fits the buffer (R55, R76). -/
theorem completedFrame_of_le {s : State} (h : s.codec.declaredLen.toNat ≤ s.maxPacketSize) :
    completedFrame s = .ok
      { commandByte := s.bufByte 0
        payload := (List.range' 1 (s.codec.declaredLen.toNat - 1)).map s.bufByte
        payloadLength := s.codec.declaredLen - 1#8 } := by
  have hpos := s.maxPacketSize_pos
  simp only [completedFrame, memRead_of_lt hpos,
    memReadRange_of_le (s := s) (s.codec.declaredLen.toNat - 1) 1 (by omega)]
  rfl

/-- The state after the store and the increment of R75. -/
def State.stored (s : State) (b : Byte) : State :=
  (s.putBuf s.codec.count.toNat b).setCount (s.codec.count + 1#8)

theorem stored_codec (s : State) (b : Byte) :
    (s.stored b).codec =
      { rxState := s.codec.rxState, declaredLen := s.codec.declaredLen, count := s.codec.count + 1#8,
        buf := s.codec.buf.set s.codec.count.toNat b } := rfl

theorem stored_bufByte (s : State) (b : Byte) (j : Nat) :
    (s.stored b).bufByte j = if j = s.codec.count.toNat then b else s.bufByte j :=
  State.bufByte_putBuf s _ j b

theorem stored_maxPacketSize (s : State) (b : Byte) : (s.stored b).maxPacketSize = s.maxPacketSize := rfl

/-- A byte in ReadPayload inside the buffer: the tests of R76 and R77 on the state of R75. -/
theorem rxPayload_of_lt {s : State} {b : Byte} (h : s.codec.count.toNat < s.maxPacketSize) :
    rxPayload b s = rxAfterStore (s.stored b) := by
  simp only [rxPayload, memWrite_of_lt h]
  rfl

/-- What a received byte can do when it answers a next state (R72 to R77). -/
theorem execRxByte_cases {b : Byte} {s t : State} (h : execRxByte b s = .next t) :
    (s.codec.rxState = .waitSync1 ∧
      t = (s.enterRx (if b = Config.sync1 then .waitSync2 else .waitSync1)).returning .none) ∨
    (s.codec.rxState = .waitSync2 ∧
      t = (s.enterRx (if b = Config.sync2 then .readLength else .waitSync1)).returning .none) ∨
    (s.codec.rxState = .readLength ∧
      t = (((s.setDeclaredLen (clampLength s.params b)).setCount 0#8).enterRx .readPayload).returning .none) ∨
    (s.codec.rxState = .readPayload ∧ s.codec.count.toNat < s.maxPacketSize ∧
      ((s.codec.count + 1#8 = s.codec.declaredLen ∧
          ∃ f, completedFrame (s.stored b) = .ok f ∧ t = ((s.stored b).enterRx .waitSync1).handOut f) ∨
        (s.codec.declaredLen < s.codec.count + 1#8 ∧ t = ((s.stored b).enterRx .waitSync1).returning .none) ∨
        (s.codec.count + 1#8 ≠ s.codec.declaredLen ∧ ¬ s.codec.declaredLen < s.codec.count + 1#8 ∧
          t = (s.stored b).returning .none))) := by
  unfold execRxByte at h
  split at h
  · next hs => cases h; exact .inl ⟨hs, rfl⟩
  · next hs => cases h; exact .inr (.inl ⟨hs, rfl⟩)
  · next hs => cases h; exact .inr (.inr (.inl ⟨hs, rfl⟩))
  · next hs =>
    refine .inr (.inr (.inr ⟨hs, ?_⟩))
    by_cases hlt : s.codec.count.toNat < s.maxPacketSize
    · refine ⟨hlt, ?_⟩
      rw [rxPayload_of_lt hlt, rxAfterStore] at h
      split at h
      · next heq =>
        split at h
        · next f hf => cases h; exact .inl ⟨heq, f, hf, rfl⟩
        · cases h
      · next hne =>
        split at h
        · next hgt => cases h; exact .inr (.inl ⟨hgt, rfl⟩)
        · next hle => cases h; exact .inr (.inr ⟨hne, hle, rfl⟩)
    · simp only [rxPayload, memWrite_of_ge hlt] at h
      cases h

/-- The frame under construction depends only on the codec, the parameters and the free values of the epoch. -/
theorem completedFrame_congr {s s' : State} (hc : s'.codec = s.codec) (he : s'.epoch = s.epoch) (hp : s'.params = s.params) :
    completedFrame s' = completedFrame s := by
  have hm : s'.maxPacketSize = s.maxPacketSize := by simp only [State.maxPacketSize, hp]
  have hread : ∀ k, memRead s' k = memRead s k := fun k => by
    simp only [memRead, hm, State.bufByte_congr (congrArg Codec.buf hc) he k]
  have hrange : ∀ n k, memReadRange s' k n = memReadRange s k n := by
    intro n
    induction n with
    | zero => intro k; rfl
    | succ n ih => intro k; simp only [memReadRange, hread, ih]
  simp only [completedFrame, hread, hrange, hc]

/-- What a received byte reads: two states with one codec, one set of parameters and one epoch add the same frames, at most one, and
keep the three equal, whatever else they hold. -/
theorem execRxByte_congr {b : Byte} {s s' t : State} (hc : s'.codec = s.codec) (he : s'.epoch = s.epoch)
    (hp : s'.params = s.params) (h : execRxByte b s = .next t) :
    ∃ t' fs, execRxByte b s' = .next t' ∧ t'.codec = t.codec ∧ t'.epoch = t.epoch ∧ t'.params = t.params ∧
      t.frames = s.frames ++ fs ∧ t'.frames = s'.frames ++ fs := by
  have nil : ∀ fs : List Frame, fs = fs ++ [] := fun fs => (List.append_nil fs).symm
  have hm : s'.maxPacketSize = s.maxPacketSize := by simp only [State.maxPacketSize, hp]
  have hst : (s'.stored b).codec = (s.stored b).codec := by simp only [stored_codec, hc]
  rcases execRxByte_cases h with ⟨h1, rfl⟩ | ⟨h1, rfl⟩ | ⟨h1, rfl⟩ | ⟨h1, hlt, h3⟩
  · rw [execRxByte, hc, h1]
    exact ⟨_, [], rfl, by simp [hc], he, hp, nil _, nil _⟩
  · rw [execRxByte, hc, h1]
    exact ⟨_, [], rfl, by simp [hc], he, hp, nil _, nil _⟩
  · rw [execRxByte, hc, h1]
    exact ⟨_, [], rfl, by simp [hc, hp], he, hp, nil _, nil _⟩
  · have hexec : execRxByte b s' = rxAfterStore (s'.stored b) := by
      rw [← rxPayload_of_lt (by rw [hc, hm]; exact hlt)]
      simp only [execRxByte, hc, h1]
    rw [hexec, rxAfterStore, hst, completedFrame_congr hst he hp]
    rcases h3 with ⟨h3, f, hf, rfl⟩ | ⟨h3, rfl⟩ | ⟨h3, h4, rfl⟩
    · rw [if_pos (show (s.stored b).codec.count = (s.stored b).codec.declaredLen from h3), hf]
      exact ⟨_, [f], rfl, by simp [hst], he, hp, rfl, rfl⟩
    · have hne : ¬ (s.stored b).codec.count = (s.stored b).codec.declaredLen := (BitVec.ne_of_lt h3).symm
      rw [if_neg hne, if_pos (show (s.stored b).codec.declaredLen < (s.stored b).codec.count from h3)]
      exact ⟨_, [], rfl, by simp [hst], he, hp, nil _, nil _⟩
    · rw [if_neg (show ¬ (s.stored b).codec.count = (s.stored b).codec.declaredLen from h3),
        if_neg (show ¬ (s.stored b).codec.declaredLen < (s.stored b).codec.count from h4)]
      exact ⟨_, [], rfl, hst, he, hp, nil _, nil _⟩

/-! ## TX_FRAME -/

theorem execTxFrame_busy {cmd : Byte} {p : List Byte} {s : State} (hp : p.length ≤ 254) (hb : s.txBusy = true) :
    execTxFrame cmd p s = .next s.holding := by
  unfold execTxFrame
  rw [if_neg (by simpa [Config.maxTxPayload] using hp), if_pos hb]

theorem execTxFrame_idle {cmd : Byte} {p : List Byte} {s : State} (hp : p.length ≤ 254) (hb : s.txBusy = false) :
    execTxFrame cmd p s = .next ((s.transmit (wireFrame (forceOrigin cmd) p)).returning .none) := by
  unfold execTxFrame
  rw [if_neg (by simpa [Config.maxTxPayload] using hp), if_neg (by simp [hb])]

theorem execTxFrame_tooLong {cmd : Byte} {p : List Byte} {s : State} (hp : 254 < p.length) :
    execTxFrame cmd p s = .refused .txPayloadTooLong := if_pos hp

/-- What TX_FRAME can do when it answers a next state (R87, R88). -/
theorem execTxFrame_cases {cmd : Byte} {p : List Byte} {s t : State} (h : execTxFrame cmd p s = .next t) :
    p.length ≤ 254 ∧
      ((s.txBusy = true ∧ t = s.holding) ∨
        (s.txBusy = false ∧ t = (s.transmit (wireFrame (forceOrigin cmd) p)).returning .none)) := by
  by_cases hp : p.length ≤ 254
  · refine ⟨hp, ?_⟩
    cases hb : s.txBusy with
    | true => rw [execTxFrame_busy hp hb] at h; cases h; exact .inl ⟨rfl, rfl⟩
    | false => rw [execTxFrame_idle hp hb] at h; cases h; exact .inr ⟨rfl, rfl⟩
  · rw [execTxFrame_tooLong (by omega)] at h
    cases h

/-! ## The command byte -/

/-- A triple has a Reserved field exactly when one of the three is (R62). -/
theorem fieldsReserved_iff {f : CommandFields} :
    fieldsReserved f = true ↔ f.dest = .reserved ∨ f.origin = .reserved ∨ idReserved f.id = true := by
  simp [fieldsReserved, or_assoc]

theorem execCmdEncode_named {d : Dest} {o : Origin} {k : CommandId} {s : State}
    (h : fieldsReserved { dest := d, origin := o, id := k } = false) :
    execCmdEncode d o k s = .next (s.returning (.command (packByte (destCode d) (originCode o) (idCode k)))) := by
  unfold execCmdEncode
  rw [if_neg (by simp [h])]

theorem execCmdEncode_reserved {d : Dest} {o : Origin} {k : CommandId} {s : State}
    (h : fieldsReserved { dest := d, origin := o, id := k } = true) :
    execCmdEncode d o k s = .refused .reservedField := if_pos h

theorem execReplyCmd_some {req : Byte} {d : BitVec 2} {k : BitVec 4} {s : State} (h : replyDest req = some d) :
    execReplyCmd req k s = .next (s.returning (.command (packByte d (originCode .module) k))) := by
  simp only [execReplyCmd, h]

theorem execReplyCmd_none {req : Byte} {k : BitVec 4} {s : State} (h : replyDest req = none) :
    execReplyCmd req k s = .refused .noReplyDestination := by
  simp only [execReplyCmd, h]

/-! ## The comparator -/

/-- What CFG_WRITE can do when it answers a next state (R112). -/
theorem execCfgWrite_cases {ch : Nat} {op : ModeOperand} {mn mx : Word} {s t : State}
    (h : execCfgWrite ch op mn mx s = .next t) :
    ∃ (j : Fin 6) (m : OperationMode), j.val = ch ∧ modeOf s.params.opmodeCode op = some m ∧
      t = (s.writeConfig j { op := m, min := mn, max := mx }).returning .none := by
  unfold execCfgWrite at h
  split at h
  · cases h
  · next j hj =>
    split at h
    · cases h
    · next m hm => cases h; exact ⟨j, m, channelOf_eq_some hj, hm, rfl⟩

/-- What STATE_LOAD can do when it answers a next state (R114). -/
theorem execStateLoad_cases {ch : Nat} {l : Level} {s t : State} (h : execStateLoad ch l s = .next t) :
    ∃ j : Fin 6, j.val = ch ∧ t = (s.loadLevel j l).returning .none := by
  unfold execStateLoad at h
  split at h
  · cases h
  · next j hj => cases h; exact ⟨j, channelOf_eq_some hj, rfl⟩

/-- What HYST_EVAL can do when it answers a next state (R115). -/
theorem execHystEval_cases {value : Six Word} {s t : State} (h : execHystEval value s = .next t) :
    ∃ new : Six Level, (∀ i, s.channelLevel value i = some (new.get i)) ∧
      t = (s.endPass new (anyOnOf new)).returning (.pass new (anyOnOf new)) := by
  unfold execHystEval at h
  split at h
  · cases h
  · next new hnew => cases h; exact ⟨new, passLevels_eq_some.mp hnew, rfl⟩

/-! ## Every operation -/

/-- What an operation can do when it answers a next state: the six that write block state or outputs, and the rest, which only
return a value. -/
theorem exec_cases {i : Instr} {s t : State} (h : exec i s = .next t) :
    (i = .reset ∧ t = s.resetBlock.returning .none) ∨
    (∃ b, i = .rxByte b ∧ execRxByte b s = .next t) ∨
    (∃ cmd p, i = .txFrame cmd p ∧ p.length ≤ 254 ∧
      ((s.txBusy = true ∧ t = s.holding) ∨
        (s.txBusy = false ∧ t = (s.transmit (wireFrame (forceOrigin cmd) p)).returning .none))) ∨
    (∃ ch op mn mx, i = .cfgWrite ch op mn mx ∧ ∃ (j : Fin 6) (m : OperationMode), j.val = ch ∧
      modeOf s.params.opmodeCode op = some m ∧
      t = (s.writeConfig j { op := m, min := mn, max := mx }).returning .none) ∨
    (∃ ch l, i = .stateLoad ch l ∧ ∃ j : Fin 6, j.val = ch ∧ t = (s.loadLevel j l).returning .none) ∨
    (∃ value, i = .hystEval value ∧ ∃ new : Six Level, (∀ j, s.channelLevel value j = some (new.get j)) ∧
      t = (s.endPass new (anyOnOf new)).returning (.pass new (anyOnOf new))) ∨
    (feedsCodec i = false ∧ ∃ r, t = s.returning r) := by
  have report : ∀ {f : CommandFields}, reportFields f s = .next t → ∃ r, t = s.returning r := by
    intro f hf; cases hf; exact ⟨_, rfl⟩
  cases i with
  | reset => cases h; exact .inl ⟨rfl, rfl⟩
  | rxByte b => exact .inr (.inl ⟨b, rfl, h⟩)
  | txFrame cmd p => exact .inr (.inr (.inl ⟨cmd, p, rfl, execTxFrame_cases h⟩))
  | cfgWrite ch op mn mx => exact .inr (.inr (.inr (.inl ⟨ch, op, mn, mx, rfl, execCfgWrite_cases h⟩)))
  | stateLoad ch l => exact .inr (.inr (.inr (.inr (.inl ⟨ch, l, rfl, execStateLoad_cases h⟩))))
  | hystEval value => exact .inr (.inr (.inr (.inr (.inr (.inl ⟨value, rfl, execHystEval_cases h⟩)))))
  | cmdEncode d o k =>
    refine .inr (.inr (.inr (.inr (.inr (.inr ⟨rfl, ?_⟩)))))
    simp only [exec, execCmdEncode] at h
    split at h
    · cases h
    · cases h; exact ⟨_, rfl⟩
  | replyCmd q k =>
    refine .inr (.inr (.inr (.inr (.inr (.inr ⟨rfl, ?_⟩)))))
    simp only [exec, execReplyCmd] at h
    split at h
    · cases h; exact ⟨_, rfl⟩
    · cases h
  | cfgRead ch =>
    refine .inr (.inr (.inr (.inr (.inr (.inr ⟨rfl, ?_⟩)))))
    simp only [exec, execCfgRead] at h
    split at h
    · cases h
    · cases h; exact ⟨_, rfl⟩
  | reservedOpA => cases h
  | reservedOpB => cases h
  | reservedOpC => cases h
  | reservedOpD => cases h
  | reservedOpE => cases h
  | reservedOpF => cases h
  | _ => exact .inr (.inr (.inr (.inr (.inr (.inr ⟨rfl, report h⟩)))))

/-- No operation moves the inputs or the parameters (R24, R66, R9). -/
theorem exec_sameInputs {i : Instr} {s t : State} (h : exec i s = .next t) : SameInputs s t := by
  rcases exec_cases h with ⟨-, rfl⟩ | ⟨b, -, hb⟩ | ⟨c, p, -, -, (⟨-, rfl⟩ | ⟨-, rfl⟩)⟩ |
    ⟨_, _, _, _, -, _, _, -, -, rfl⟩ | ⟨_, _, -, _, -, rfl⟩ | ⟨_, -, _, -, rfl⟩ | ⟨-, _, rfl⟩
  case inr.inl =>
    rcases execRxByte_cases hb with ⟨-, rfl⟩ | ⟨-, rfl⟩ | ⟨-, rfl⟩ |
      ⟨-, -, (⟨-, _, -, rfl⟩ | ⟨-, rfl⟩ | ⟨-, -, rfl⟩)⟩ <;> exact ⟨rfl, rfl, rfl, rfl⟩
  all_goals exact ⟨rfl, rfl, rfl, rfl⟩

/-- What a step can do when it answers a next state: idle, or its operation and then the caller's move. -/
theorem step_cases {s t : State} (h : step s = .next t) :
    (s.caller = [] ∧ t = s.beginStep) ∨
    (∃ r rest i u, s.caller = r :: rest ∧ decodeRequest r = .ok i ∧ exec i s.beginStep = .next u ∧ t = u.endStep) := by
  unfold step at h
  split at h
  · next hc => cases h; exact .inl ⟨hc, rfl⟩
  · next r rest hc =>
    split at h
    · next i hi =>
      cases hu : exec i s.beginStep with
      | next u => rw [hu] at h; cases h; exact .inr ⟨r, rest, i, u, hc, hi, hu, rfl⟩
      | fault r => cases r
      | refused r => rw [hu] at h; cases h
    · cases h

/-! ## Lists of operations -/

@[simp] theorem runOps_nil (s : State) : runOps [] s = .next s := rfl

theorem runOps_cons_next {i : Instr} {rest : List Instr} {s t : State} (h : exec i s = .next t) :
    runOps (i :: rest) s = runOps rest t := by
  simp only [runOps, h]

/-- A list of operations that completes: its first operation completes, then the rest does. -/
theorem runOps_cons_cases {i : Instr} {rest : List Instr} {s t : State} (h : runOps (i :: rest) s = .next t) :
    ∃ u, exec i s = .next u ∧ runOps rest u = .next t := by
  unfold runOps at h
  cases hu : exec i s with
  | next u => rw [hu] at h; exact ⟨u, rfl, h⟩
  | fault r => cases r
  | refused r => rw [hu] at h; cases h

/-- One list after another. -/
theorem runOps_append {xs ys : List Instr} {s t : State} (h : runOps xs s = .next t) :
    runOps (xs ++ ys) s = runOps ys t := by
  induction xs generalizing s with
  | nil => cases h; rfl
  | cons i xs ih =>
    obtain ⟨u, hu, ht⟩ := runOps_cons_cases h
    rw [List.cons_append, runOps_cons_next hu, ih ht]

end Sys2Proof.Machine
end

