-- ==== Sys2Proof/Laws/PerInstr.lean ====
section
/-! SUPPORT. The family TableRow: every instruction's request is of its row's format in spec/opcode_table.json, and its first byte
has the row's match in the bits of the row's mask. -/

namespace Sys2Proof.Laws.TableRow

/-- The format of an instruction's row in spec/opcode_table.json, and its "match" under the mask `0xF`. -/
def row : Instr → Format × Byte
  | .reset => (.op, 0x0#8)
  | .rxByte _ => (.op, 0x1#8)
  | .txFrame _ _ => (.op, 0x2#8)
  | .cmdDecode _ => (.op, 0x3#8)
  | .cmdEncode _ _ _ => (.op, 0x4#8)
  | .replyCmd _ _ => (.op, 0x5#8)
  | .cfgWrite _ _ _ _ => (.op, 0x6#8)
  | .cfgRead _ => (.op, 0x7#8)
  | .stateLoad _ _ => (.op, 0x8#8)
  | .hystEval _ => (.op, 0x9#8)
  | .reservedOpA => (.op, 0xA#8)
  | .reservedOpB => (.op, 0xB#8)
  | .reservedOpC => (.op, 0xC#8)
  | .reservedOpD => (.op, 0xD#8)
  | .reservedOpE => (.op, 0xE#8)
  | .reservedOpF => (.op, 0xF#8)
  | .message _ _ => (.cmd, 0x0#8)
  | .getDatetime _ _ => (.cmd, 0x1#8)
  | .setDatetime _ _ => (.cmd, 0x2#8)
  | .sendSamples _ _ => (.cmd, 0x3#8)
  | .getControlConfig _ _ => (.cmd, 0x4#8)
  | .setControlConfig _ _ => (.cmd, 0x5#8)
  | .saveConfig _ _ => (.cmd, 0x6#8)
  | .powerDown _ _ => (.cmd, 0x7#8)
  | .requestAction _ _ => (.cmd, 0x8#8)
  | .setTimeout _ _ => (.cmd, 0x9#8)
  | .reservedIdA _ _ => (.cmd, 0xA#8)
  | .reservedIdB _ _ => (.cmd, 0xB#8)
  | .reservedIdC _ _ => (.cmd, 0xC#8)
  | .reservedIdD _ _ => (.cmd, 0xD#8)
  | .reservedIdE _ _ => (.cmd, 0xE#8)
  | .reservedIdF _ _ => (.cmd, 0xF#8)

/-- The request of the instruction is one of its row. -/
def Statement (i : Instr) : Prop :=
  (encode i).format = (row i).1 ∧ ∃ b rest, (encode i).bytes = b :: rest ∧ b &&& 0x0F#8 = (row i).2

/-- An operation's request: the selector byte carries the selector (R64). -/
theorem of_op {i : Instr} {k : BitVec 4} {operands : List Byte} (h : encode i = opRequest k operands)
    (hrow : row i = (.op, k.setWidth 8)) : Statement i := by
  refine ⟨by rw [h, hrow]; rfl, k.setWidth 8, operands, by rw [h]; rfl, ?_⟩
  have key : ∀ k : BitVec 4, k.setWidth 8 &&& 0x0F#8 = k.setWidth 8 := by decide
  rw [hrow]
  exact key k

/-- A command byte's request: bits [3:0] carry the id (R56, R59). -/
theorem of_cmd {i : Instr} {d : Dest} {o : Origin} {k : CommandId} (h : encode i = cmdRequest d o k)
    (hrow : row i = (.cmd, (idCode k).setWidth 8)) : Statement i := by
  refine ⟨by rw [h, hrow]; rfl, byteOf { dest := d, origin := o, id := k }, [], by rw [h]; rfl, ?_⟩
  rw [hrow]
  cases d <;> cases o <;> cases k <;> rfl

theorem reset : Statement (.reset) := of_op rfl rfl

theorem rxByte (b : Byte) : Statement (.rxByte b) := of_op rfl rfl

theorem txFrame (cmd : Byte) (payload : List Byte) : Statement (.txFrame cmd payload) := of_op rfl rfl

theorem cmdDecode (cmd : Byte) : Statement (.cmdDecode cmd) := of_op rfl rfl

theorem cmdEncode (dest : Dest) (origin : Origin) (id : CommandId) : Statement (.cmdEncode dest origin id) := of_op rfl rfl

theorem replyCmd (req : Byte) (id : BitVec 4) : Statement (.replyCmd req id) := of_op rfl rfl

theorem cfgWrite (ch : Nat) (op : ModeOperand) (mn : Word) (mx : Word) : Statement (.cfgWrite ch op mn mx) := of_op rfl rfl

theorem cfgRead (ch : Nat) : Statement (.cfgRead ch) := of_op rfl rfl

theorem stateLoad (ch : Nat) (level : Level) : Statement (.stateLoad ch level) := of_op rfl rfl

theorem hystEval (value : Six Word) : Statement (.hystEval value) := of_op rfl rfl

theorem reservedOpA : Statement (.reservedOpA) := of_op rfl rfl

theorem reservedOpB : Statement (.reservedOpB) := of_op rfl rfl

theorem reservedOpC : Statement (.reservedOpC) := of_op rfl rfl

theorem reservedOpD : Statement (.reservedOpD) := of_op rfl rfl

theorem reservedOpE : Statement (.reservedOpE) := of_op rfl rfl

theorem reservedOpF : Statement (.reservedOpF) := of_op rfl rfl

theorem message (dest : Dest) (origin : Origin) : Statement (.message dest origin) := of_cmd rfl rfl

theorem getDatetime (dest : Dest) (origin : Origin) : Statement (.getDatetime dest origin) := of_cmd rfl rfl

theorem setDatetime (dest : Dest) (origin : Origin) : Statement (.setDatetime dest origin) := of_cmd rfl rfl

theorem sendSamples (dest : Dest) (origin : Origin) : Statement (.sendSamples dest origin) := of_cmd rfl rfl

theorem getControlConfig (dest : Dest) (origin : Origin) : Statement (.getControlConfig dest origin) := of_cmd rfl rfl

theorem setControlConfig (dest : Dest) (origin : Origin) : Statement (.setControlConfig dest origin) := of_cmd rfl rfl

theorem saveConfig (dest : Dest) (origin : Origin) : Statement (.saveConfig dest origin) := of_cmd rfl rfl

theorem powerDown (dest : Dest) (origin : Origin) : Statement (.powerDown dest origin) := of_cmd rfl rfl

theorem requestAction (dest : Dest) (origin : Origin) : Statement (.requestAction dest origin) := of_cmd rfl rfl

theorem setTimeout (dest : Dest) (origin : Origin) : Statement (.setTimeout dest origin) := of_cmd rfl rfl

theorem reservedIdA (dest : Dest) (origin : Origin) : Statement (.reservedIdA dest origin) := of_cmd rfl rfl

theorem reservedIdB (dest : Dest) (origin : Origin) : Statement (.reservedIdB dest origin) := of_cmd rfl rfl

theorem reservedIdC (dest : Dest) (origin : Origin) : Statement (.reservedIdC dest origin) := of_cmd rfl rfl

theorem reservedIdD (dest : Dest) (origin : Origin) : Statement (.reservedIdD dest origin) := of_cmd rfl rfl

theorem reservedIdE (dest : Dest) (origin : Origin) : Statement (.reservedIdE dest origin) := of_cmd rfl rfl

theorem reservedIdF (dest : Dest) (origin : Origin) : Statement (.reservedIdF dest origin) := of_cmd rfl rfl

end Sys2Proof.Laws.TableRow
end

