-- ==== Sys2Proof/Tests/Slice0.lean ====
section
/-! SUPPORT. Tests of the model: ill-formed instructions are refused; words written out from the spec's encodings decode to the
instructions they stand for; single operations give what spec/95_test_vectors.md says; and every statement's hypotheses are met by
some state and operands. -/

namespace Sys2Proof.Tests

open Sys2Proof.Machine

/-! ## Well-formedness -/

/-- A payload of 256 bytes: its length is no u8. -/
theorem test_wellFormed_payload_refused : (Instr.txFrame 0x90#8 (List.replicate 256 0#8)).wellFormed = false := by
  rw [Instr.wellFormed, payloadFits, List.length_replicate]; decide

theorem test_wellFormed_payload_accepted : (Instr.txFrame 0x90#8 (List.replicate 255 0#8)).wellFormed = true := by
  rw [Instr.wellFormed, payloadFits, List.length_replicate]; decide

theorem test_wellFormed_cfgWrite_refused :
    (Instr.cfgWrite 256 (.named .disabled) 0#16 0#16).wellFormed = false := by decide

theorem test_wellFormed_cfgRead_refused : (Instr.cfgRead 256).wellFormed = false := by decide

theorem test_wellFormed_stateLoad_refused : (Instr.stateLoad 256 .on).wellFormed = false := by decide

/-- A channel above 5 that fits a byte is an operation's own refusal, not an ill-formed instruction. -/
theorem test_wellFormed_channel_accepted : (Instr.cfgRead 255).wellFormed = true := by decide

/-! ## Decoding: selectors of R64, operand layout of log 2 -/

theorem test_decode_reset : decode .op [0b00000000#8] = .ok (.reset, []) := by decide

theorem test_decode_rxByte : decode .op [0b00000001#8, 0b10101010#8] = .ok (.rxByte 0xAA#8, []) := by decide

theorem test_decode_txFrame :
    decode .op [0b00000010#8, 0b00010011#8, 0b00000010#8, 0b01000001#8, 0b01000010#8]
      = .ok (.txFrame 0x13#8 [0x41#8, 0x42#8], []) := by decide

theorem test_decode_cmdDecode : decode .op [0b00000011#8, 0b10010000#8] = .ok (.cmdDecode 0x90#8, []) := by decide

theorem test_decode_cmdEncode :
    decode .op [0b00000100#8, 0b00000000#8, 0b00000000#8, 0b00000011#8]
      = .ok (.cmdEncode .broadcast .module .sendSamples, []) := by decide

theorem test_decode_replyCmd :
    decode .op [0b00000101#8, 0b10010101#8, 0b00000101#8] = .ok (.replyCmd 0x95#8 0x5#4, []) := by decide

/-- 600 is 0000_0010_0101_1000 and 900 is 0000_0011_1000_0100. -/
theorem test_decode_cfgWrite :
    decode .op [0b00000110#8, 0b00000010#8, 0b00000001#8, 0b01011000#8, 0b00000010#8, 0b10000100#8, 0b00000011#8]
      = .ok (.cfgWrite 2 (.named .sensorControlsValve) 600#16 900#16, []) := by decide

theorem test_decode_cfgRead : decode .op [0b00000111#8, 0b00000010#8] = .ok (.cfgRead 2, []) := by decide

theorem test_decode_stateLoad :
    decode .op [0b00001000#8, 0b00000100#8, 0b00000001#8] = .ok (.stateLoad 4 .on, []) := by decide

theorem test_decode_hystEval :
    decode .op [0b00001001#8, 0b10000101#8, 0b00000011#8, 0#8, 0#8, 0#8, 0#8, 0#8, 0#8, 0#8, 0#8, 0#8, 0b00000001#8]
      = .ok (.hystEval { c0 := 901#16, c1 := 0#16, c2 := 0#16, c3 := 0#16, c4 := 0#16, c5 := 256#16 }, []) := by decide

theorem test_decode_reservedOps :
    decode .op [0b00001010#8] = .ok (.reservedOpA, []) ∧ decode .op [0b00001011#8] = .ok (.reservedOpB, []) ∧
    decode .op [0b00001100#8] = .ok (.reservedOpC, []) ∧ decode .op [0b00001101#8] = .ok (.reservedOpD, []) ∧
    decode .op [0b00001110#8] = .ok (.reservedOpE, []) ∧ decode .op [0b00001111#8] = .ok (.reservedOpF, []) := by decide

/-- OPSEL has 4 bits: a selector byte with a bit above them selects nothing. -/
theorem test_decode_selector_rejected : decode .op [0b00010000#8] = .error .selectorBits := by decide

/-- A `CFG_WRITE` cut off inside `max` is no request. -/
theorem test_decode_truncated : decode .op [0x06#8, 0x02#8, 0x01#8, 0x58#8, 0x02#8, 0x84#8] = .error .truncated := by decide

/-! ## Decoding: the command byte `ddoo iiii` (R56 to R59, R63) -/

theorem test_decode_message : decode .cmd [0b10_01_0000#8] = .ok (.message .endpoint .software, []) := by decide

theorem test_decode_getDatetime : decode .cmd [0b10_00_0001#8] = .ok (.getDatetime .endpoint .router, []) := by decide

theorem test_decode_setDatetime : decode .cmd [0b10_01_0010#8] = .ok (.setDatetime .endpoint .software, []) := by decide

theorem test_decode_sendSamples : decode .cmd [0b11_10_0011#8] = .ok (.sendSamples .broadcast .module, []) := by decide

theorem test_decode_getControlConfig :
    decode .cmd [0b10_01_0100#8] = .ok (.getControlConfig .endpoint .software, []) := by decide

theorem test_decode_setControlConfig :
    decode .cmd [0b10_01_0101#8] = .ok (.setControlConfig .endpoint .software, []) := by decide

theorem test_decode_saveConfig : decode .cmd [0b01_10_0110#8] = .ok (.saveConfig .router .module, []) := by decide

theorem test_decode_powerDown : decode .cmd [0b11_01_0111#8] = .ok (.powerDown .broadcast .software, []) := by decide

theorem test_decode_requestAction : decode .cmd [0b01_10_1000#8] = .ok (.requestAction .router .module, []) := by decide

theorem test_decode_setTimeout : decode .cmd [0b01_00_1001#8] = .ok (.setTimeout .router .router, []) := by decide

theorem test_decode_reservedIds :
    decode .cmd [0b10_00_1010#8] = .ok (.reservedIdA .endpoint .router, []) ∧
    decode .cmd [0b00_11_1011#8] = .ok (.reservedIdB .reserved .reserved, []) ∧
    decode .cmd [0b01_01_1100#8] = .ok (.reservedIdC .router .software, []) ∧
    decode .cmd [0b10_10_1101#8] = .ok (.reservedIdD .endpoint .module, []) ∧
    decode .cmd [0b00_00_1110#8] = .ok (.reservedIdE .reserved .router, []) ∧
    decode .cmd [0b11_11_1111#8] = .ok (.reservedIdF .broadcast .reserved, []) := by decide

/-! ## Table words -/

theorem test_tableWord_hystEval :
    decodeTableWord 4 0b1001
      = some (.hystEval { c0 := 0#16, c1 := 0#16, c2 := 0#16, c3 := 0#16, c4 := 0#16, c5 := 0#16 }) := by decide

/-- A payload length in the word: the payload's bytes above `nbits` are zeros. -/
theorem test_tableWord_txFrame : decodeTableWord 24 0x031302 = some (.txFrame 0x13#8 [0#8, 0#8, 0#8]) := by decide

/-! ## One operation each, from spec/95_test_vectors.md -/

/-- What a completed operation leaves at `f`. -/
def after {α : Type} (o : Host.Outcome State Fault Refusal) (f : State → α) : Option α :=
  match o with
  | .next t => some (f t)
  | .fault _ => none
  | .refused _ => none

/-- Why an operation is refused. -/
def refusal (o : Host.Outcome State Fault Refusal) : Option Refusal :=
  match o with
  | .next _ => none
  | .fault _ => none
  | .refused r => some r

/-- A codec in a given state, the rest as after reset. -/
def rx (r : RxState) (declared count : Byte) (buf : Memory) : State :=
  { State.reset with codec := { rxState := r, declaredLen := declared, count := count, buf := buf } }

/-- Channel 0 as given, every channel's `last` and pin at `l`, the other channels Disabled. -/
def channel0 (op : OperationMode) (mn mx : Word) (l : Level) : State :=
  { State.reset with
    comparator :=
      { State.reset.comparator with
        operation := { State.reset.comparator.operation with c0 := op }
        minThreshold := { State.reset.comparator.minThreshold with c0 := mn }
        maxThreshold := { State.reset.comparator.maxThreshold with c0 := mx }
        lastState := Six.tabulate (fun _ => .known l) }
    valve := Six.tabulate (fun _ => l) }

/-- Samples with `v` on channel 0. -/
def sample0 (v : Word) : Six Word := { c0 := v, c1 := 0#16, c2 := 0#16, c3 := 0#16, c4 := 0#16, c5 := 0#16 }

/-- `MAX_PACKET_SIZE` of 4, in WaitSync1. -/
def max4 : State := { State.reset with params := { State.reset.params with maxPayload := 3 } }

/-- V15: the partial frame is abandoned, nothing is handed out. -/
theorem test_reset_abandons :
    after (exec .reset (rx .readPayload 5#8 2#8 [(0, 0x90#8), (1, 0x01#8)])) (fun t => (t.codec.rxState, t.frames))
      = some (.waitSync1, []) := by decide

/-- V15, H24: a channel that was known is Unset again. -/
theorem test_reset_unset :
    after (exec .reset (channel0 .forceValveOn 0#16 0#16 .on)) (fun t => (t.comparator.lastState.c0, t.valve.c0))
      = some (.unset, .on) := by decide

/-- V1: the sixth byte of `AA 55 03 90 41 42` hands out the frame. -/
theorem test_rxByte_completes :
    after (exec (.rxByte 0x42#8) (rx .readPayload 3#8 2#8 [(0, 0x90#8), (1, 0x41#8)])) (fun t => (t.codec.rxState, t.frames))
      = some (.waitSync1, [{ commandByte := 0x90#8, payload := [0x41#8, 0x42#8], payloadLength := 2#8 }]) := by decide

/-- V6: with MAX_PACKET_SIZE 4, LEN 06 is clamped to 4. -/
theorem test_rxByte_clamps :
    after (exec (.rxByte 0x06#8) { max4 with codec := { max4.codec with rxState := .readLength } })
        (fun t => (t.codec.rxState, t.codec.declaredLen, t.codec.count))
      = some (.readPayload, 4#8, 0#8) := by decide

/-- T4: `TX FF []` emits `AA 55 01 EF`. -/
theorem test_txFrame_emits :
    after (exec (.txFrame 0xFF#8 []) State.reset) (fun t => t.radio)
      = some [.beginPacket, .emit 0xAA#8, .emit 0x55#8, .emit 0x01#8, .emit 0xEF#8, .endPacket] := by decide

/-- T8: 255 bytes of payload are refused. -/
theorem test_txFrame_too_long :
    refusal (exec (.txFrame 0x90#8 (List.replicate 255 0#8)) State.reset) = some .txPayloadTooLong := by
  have h : 254 < (List.replicate 255 0#8).length := by rw [List.length_replicate]; decide
  rw [exec, execTxFrame_tooLong h, refusal]

/-- C2: `DEC 00`. -/
theorem test_cmdDecode_zero :
    after (exec (.cmdDecode 0x00#8) State.reset) (fun t => t.result)
      = some (.fields { dest := .reserved, origin := .router, id := .message }) := by decide

/-- C6: `DEC 8A`. -/
theorem test_cmdDecode_reserved_id :
    after (exec (.cmdDecode 0x8A#8) State.reset) (fun t => t.result)
      = some (.fields { dest := .endpoint, origin := .router, id := .reservedA }) := by decide

/-- C10: `ENC ROUTER, ROUTER, MESSAGE`. -/
theorem test_cmdEncode_router :
    after (exec (.cmdEncode .router .router .message) State.reset) (fun t => t.result) = some (.command 0x40#8) := by decide

/-- C12: `ENC Reserved(00), ROUTER, MESSAGE`. -/
theorem test_cmdEncode_reserved :
    refusal (exec (.cmdEncode .reserved .router .message) State.reset) = some .reservedField := by decide

/-- C18: `REPLY 0F, F`. -/
theorem test_replyCmd_router :
    after (exec (.replyCmd 0x0F#8 0xF#4) State.reset) (fun t => t.result) = some (.command 0x6F#8) := by decide

/-- C20: `REPLY B0, 0`. -/
theorem test_replyCmd_refused : refusal (exec (.replyCmd 0xB0#8 0x0#4) State.reset) = some .noReplyDestination := by decide

/-- H28: an inverted pair is stored, in its own channel. -/
theorem test_cfgWrite_inverted :
    after (exec (.cfgWrite 3 (.named .forceValveOff) 900#16 600#16) State.reset)
        (fun t => (t.comparator.operation.c3, t.comparator.minThreshold.c3, t.comparator.maxThreshold.c3, t.comparator.maxThreshold.c2))
      = some (.forceValveOff, 900#16, 600#16, 0#16) := by decide

/-- H21: `CFGW 6` is refused. -/
theorem test_cfgWrite_channel :
    refusal (exec (.cfgWrite 6 (.named .sensorControlsValve) 1#16 2#16) State.reset) = some .channelIndex := by decide

/-- H22: `CFGR 7` is refused. -/
theorem test_cfgRead_channel : refusal (exec (.cfgRead 7) State.reset) = some .channelIndex := by decide

/-- W5's read half: `min` and `max` are not swapped. -/
theorem test_cfgRead_record :
    after (exec (.cfgRead 0) (channel0 .sensorControlsValve 600#16 900#16 .off)) (fun t => t.result)
      = some (.config { op := .sensorControlsValve, min := 600#16, max := 900#16 }) := by decide

/-- R114's example: `LOAD 4, ON`. -/
theorem test_stateLoad_on :
    after (exec (.stateLoad 4 .on) State.reset) (fun t => (t.comparator.lastState.c4, t.valve.c4, t.comparator.anyOn))
      = some (.known .on, .on, false) := by decide

/-- H23: `LOAD 6, ON` is refused. -/
theorem test_stateLoad_channel : refusal (exec (.stateLoad 6 .on) State.reset) = some .channelIndex := by decide

/-- H2: at max the channel holds ON. -/
theorem test_hystEval_at_max :
    after (exec (.hystEval (sample0 900#16)) (channel0 .sensorControlsValve 600#16 900#16 .on))
        (fun t => (t.comparator.lastState.c0, t.valve.c0, t.comparator.anyOn))
      = some (.known .on, .on, true) := by decide

/-- H24: an Unset SensorControlsValve channel. -/
theorem test_hystEval_unset :
    refusal (exec (.hystEval (sample0 0#16))
        { State.reset with
          comparator :=
            { State.reset.comparator with
              operation := { State.reset.comparator.operation with c0 := .sensorControlsValve } } })
      = some .unsetLastState := by decide

/-- R131, as the first instruction after reset. -/
theorem test_reservedOp_refused :
    refusal (step (State.reset.withFetchWord 8 0b00001010)) = some .reservedOperation ∧
    refusal (step (State.reset.withFetchWord 8 0b00001111)) = some .reservedOperation := by decide

/-- C8 as a command row, the first instruction after reset: `DEC D7`. -/
theorem test_commandRow_step :
    after (step (State.reset.withFetchWord 8 0b11_01_0111)) (fun t => (t.result, t.caller))
      = some (.fields { dest := .broadcast, origin := .software, id := .powerDown }, []) := by decide

/-- T9: a `TX_FRAME` held by the radio stays the caller's next operation. -/
theorem test_step_holds :
    after (step { (State.reset.withFetchWord 16 0b10010000_00000010) with txBusyNext := [true] })
        (fun t => (t.radio, t.held, t.caller.length))
      = some ([], true, 1) := by decide

/-- P2: in a queue of two operations the first is run and the second stays. -/
theorem test_step_order :
    after (step { State.reset with caller := [encode (.rxByte 0xAA#8), encode .reset] })
        (fun t => (t.codec.rxState, t.caller))
      = some (.waitSync2, [encode .reset]) := by decide

/-! ## Witnesses: states and operands that meet the hypotheses of the statements -/

theorem test_witness_RxWaitSync1Transition : State.reset.codec.rxState = .waitSync1 := rfl

theorem test_witness_RxWaitSync2Transition :
    (rx .waitSync2 0#8 0#8 []).codec.rxState = .waitSync2 ∧ State.reset.codec.rxState = .waitSync1 := ⟨rfl, rfl⟩

theorem test_witness_RxReadLengthLatches : (rx .readLength 0#8 0#8 []).codec.rxState = .readLength := rfl

/-- The last entry of the buffer, with each of the three outcomes of the tests. -/
theorem test_witness_RxPayloadStoresByte :
    ((rx .readPayload 255#8 253#8 []).codec.rxState = .readPayload ∧
      (rx .readPayload 255#8 253#8 []).codec.count.toNat < (rx .readPayload 255#8 253#8 []).maxPacketSize ∧
      (rx .readPayload 255#8 253#8 []).codec.count.toNat + 1 < (rx .readPayload 255#8 253#8 []).codec.declaredLen.toNat) ∧
    ((rx .readPayload 255#8 254#8 []).codec.count.toNat < (rx .readPayload 255#8 254#8 []).maxPacketSize ∧
      (rx .readPayload 255#8 254#8 []).codec.count.toNat + 1 = (rx .readPayload 255#8 254#8 []).codec.declaredLen.toNat) ∧
    ((rx .readPayload 0#8 0#8 []).codec.count.toNat < (rx .readPayload 0#8 0#8 []).maxPacketSize ∧
      CodecInv (rx .readPayload 0#8 0#8 []) ∧
      (rx .readPayload 0#8 0#8 []).codec.declaredLen.toNat < (rx .readPayload 0#8 0#8 []).codec.count.toNat + 1) := by
  unfold CodecInv; decide

/-- LEN = 1 and LEN = 255. -/
theorem test_witness_RxCompletionHandsOutFrame :
    ((rx .readPayload 1#8 0#8 []).codec.rxState = .readPayload ∧
      (rx .readPayload 1#8 0#8 []).codec.count.toNat < (rx .readPayload 1#8 0#8 []).maxPacketSize ∧
      (rx .readPayload 1#8 0#8 []).codec.count.toNat + 1 = (rx .readPayload 1#8 0#8 []).codec.declaredLen.toNat) ∧
    ((rx .readPayload 255#8 254#8 []).codec.rxState = .readPayload ∧
      (rx .readPayload 255#8 254#8 []).codec.count.toNat < (rx .readPayload 255#8 254#8 []).maxPacketSize ∧
      (rx .readPayload 255#8 254#8 []).codec.count.toNat + 1 = (rx .readPayload 255#8 254#8 []).codec.declaredLen.toNat) := by
  decide

/-- Declared length 0 in a state of a run; a declared length the count has passed, which no run reaches. -/
theorem test_witness_RxZeroLengthDropsOneByte :
    (CodecInv (rx .readPayload 0#8 0#8 []) ∧ (rx .readPayload 0#8 0#8 []).codec.rxState = .readPayload ∧
      (rx .readPayload 0#8 0#8 []).codec.count.toNat < (rx .readPayload 0#8 0#8 []).maxPacketSize ∧
      (rx .readPayload 0#8 0#8 []).codec.declaredLen.toNat < (rx .readPayload 0#8 0#8 []).codec.count.toNat + 1) ∧
    ((rx .readPayload 4#8 4#8 []).codec.count.toNat < (rx .readPayload 4#8 4#8 []).maxPacketSize ∧
      (rx .readPayload 4#8 4#8 []).codec.declaredLen.toNat < (rx .readPayload 4#8 4#8 []).codec.count.toNat + 1) ∧
    (rx .readLength 0#8 0#8 []).codec.rxState = .readLength := by
  unfold CodecInv; decide

theorem test_witness_RxByteAlwaysSteps : CodecInv (rx .readPayload 255#8 254#8 []) := by unfold CodecInv; decide

/-- A byte that completes a frame, and one that does not. -/
theorem test_witness_RxHandsOutAtMostOneWholeFrame :
    (∃ t, exec (.rxByte 0x42#8) (rx .readPayload 1#8 0#8 []) = .next t) ∧ ∃ t, exec (.rxByte 0x42#8) State.reset = .next t :=
  ⟨⟨_, rfl⟩, ⟨_, rfl⟩⟩

/-- Bytes in chunks that hand out a frame, and two states that agree on the codec but not on the comparator. -/
theorem test_witness_RxChunkInvariance :
    (channel0 .forceValveOn 1#16 2#16 .on).codec = State.reset.codec ∧
      (channel0 .forceValveOn 1#16 2#16 .on).epoch = State.reset.epoch ∧
      (channel0 .forceValveOn 1#16 2#16 .on).params = State.reset.params ∧
      (channel0 .forceValveOn 1#16 2#16 .on).comparator ≠ State.reset.comparator ∧
      ∃ t, runChunks [[0xAA#8, 0x55#8], [], [0x01#8, 0x91#8, 0xAA#8]] State.reset = .next t ∧ t.frames ≠ [] :=
  ⟨rfl, rfl, rfl, by decide, ⟨_, rfl, by decide⟩⟩

theorem test_witness_RxPayloadBytesAreData :
    CodecInv (rx .readPayload 3#8 1#8 []) ∧ (rx .readPayload 3#8 1#8 []).codec.rxState = .readPayload := by
  unfold CodecInv; decide

theorem test_witness_FrameBytesStayThreeBytes :
    State.reset.codec.rxState = .waitSync1 ∧ [0xAA#8, 0x55#8, 0x01#8].length ≤ 3 ∧
      ∃ t, runOps (rxBytes [0xAA#8, 0x55#8, 0x01#8]) State.reset = .next t := ⟨rfl, by decide, ⟨_, rfl⟩⟩

/-- An empty payload, and the longest that fits. -/
theorem test_witness_WireFrameIsReassembled :
    State.reset.codec.rxState = .waitSync1 ∧ ([] : List Byte).length + 1 ≤ State.reset.maxPacketSize ∧
      (List.replicate 254 0xAA#8).length + 1 ≤ State.reset.maxPacketSize := by
  rw [List.length_replicate]; decide

/-- V6's clamp, and the smallest one. -/
theorem test_witness_OversizedFrameIsClamped :
    max4.codec.rxState = .waitSync1 ∧ max4.maxPacketSize < (0x06#8).toNat ∧ max4.maxPacketSize < (0x05#8).toNat ∧
      [0x01#8, 0x02#8, 0x03#8].length + 1 = max4.maxPacketSize := by decide

theorem test_witness_TxEmitsOnePacket :
    State.reset.txBusy = false ∧ (List.replicate 254 0#8).length ≤ 254 := by rw [List.length_replicate]; decide

/-- A radio that is busy, at once and for the steps to come. -/
def busy : State := { State.reset with txBusy := true, txBusyNext := [true, true] }

theorem test_witness_TxHoldsWhileBusy : busy.txBusy = true ∧ (List.replicate 254 0#8).length ≤ 254 := by
  rw [List.length_replicate]; decide

theorem test_witness_TxRefusesLongPayload : 254 < (List.replicate 255 0#8).length := by
  rw [List.length_replicate]; decide

/-- T9's operation, waiting for no step and for two steps. -/
theorem test_witness_TxProceedsWhenRadioFrees :
    decodeRequest (encode (.txFrame 0x90#8 [])) = .ok (.txFrame 0x90#8 []) ∧ ([] : List Byte).length ≤ 254 ∧
      { busy with caller := [encode (.txFrame 0x90#8 [])] }.caller = encode (.txFrame 0x90#8 []) :: [] ∧
      { busy with txBusyNext := [false] }.txBusyNext = List.replicate 0 true ++ false :: [] ∧
      { busy with txBusyNext := [true, true, false] }.txBusyNext = List.replicate 2 true ++ false :: [] := by decide

theorem test_witness_TxHangsWhileRadioBusy :
    decodeRequest (encode (.txFrame 0x90#8 [])) = .ok (.txFrame 0x90#8 []) ∧ ([] : List Byte).length ≤ 254 ∧
      { busy with caller := [encode (.txFrame 0x90#8 [])] }.caller = encode (.txFrame 0x90#8 []) :: [] ∧
      busy.txBusy = true ∧ ∀ b ∈ busy.txBusyNext, b = true := by decide

theorem test_witness_TransmittedFrameIsReceived :
    State.reset.txBusy = false ∧ (List.replicate 254 0#8).length ≤ 254 ∧ State.reset.codec.rxState = .waitSync1 ∧
      (List.replicate 254 0#8).length + 1 ≤ State.reset.maxPacketSize := by rw [List.length_replicate]; decide

/-- The last named id, and the first reserved one. -/
theorem test_witness_CmdEncodePacksNamedFields :
    (Dest.router ≠ .reserved ∧ Origin.router ≠ .reserved ∧ idReserved .setTimeout = false) ∧ idReserved .reservedA = true := by
  decide

/-- One request of each origin. -/
theorem test_witness_ReplyCmdRetagsRequest :
    (0x95#8).extractLsb' 4 2 = 0b01#2 ∧ (0x46#8).extractLsb' 4 2 = 0b00#2 ∧ (0xA2#8).extractLsb' 4 2 = 0b10#2 ∧
      (0xB0#8).extractLsb' 4 2 = 0b11#2 ∧
      ∃ c, exec (.replyCmd 0x95#8 0x5#4) State.reset = .next { State.reset with result := .command c } :=
  ⟨by decide, by decide, by decide, by decide, ⟨0xA5#8, rfl⟩⟩

/-- The largest named id beside the smallest reserved one. -/
theorem test_witness_CommandByteRoundTrip :
    fieldsReserved (fieldsOf 0x99#8) = false ∧ fieldsReserved (fieldsOf 0x9A#8) = true ∧
      (Dest.broadcast ≠ .reserved ∧ Origin.module ≠ .reserved ∧ idReserved .message = false) := by decide

theorem reset_codes_distinct : CodesDistinct State.reset.params.opmodeCode := by
  intro m m' h
  revert h
  cases m <;> cases m' <;> decide

theorem test_witness_CfgWriteOverwritesOneChannel :
    5 < 6 ∧ CodesDistinct State.reset.params.opmodeCode ∧
      ModeOperand.code 0x05C0#16 = .code (modeCode State.reset.params.opmodeCode .sensorControlsValve) :=
  ⟨by decide, reset_codes_distinct, rfl⟩

/-- Channels 5 and 6, and a code that is no mode's. -/
theorem test_witness_CfgWriteRefusals :
    5 < 6 ∧ 5 ≤ 5 ∧ ∀ m, modeCode State.reset.params.opmodeCode m ≠ 0x0000#16 :=
  ⟨by decide, by decide, by intro m; cases m <;> decide⟩

theorem test_witness_StateLoadSetsOneChannel : 5 < 6 ∧ ((5 : Fin 6)).val = 5 := by decide

/-- A pass that completes and one that is refused. -/
theorem test_witness_HystEvalAppliesPolicy :
    SensorsKnown (channel0 .sensorControlsValve 600#16 900#16 .on) ∧
      ¬ SensorsKnown { channel0 .sensorControlsValve 600#16 900#16 .on with
        comparator :=
          { (channel0 .sensorControlsValve 600#16 900#16 .on).comparator with
            lastState := State.reset.comparator.lastState } } := by
  unfold SensorsKnown; decide

/-- Two states that agree on channel 0 only. -/
theorem test_witness_ChannelsAreIndependent :
    (∃ t, exec (.hystEval (sample0 901#16)) (channel0 .sensorControlsValve 600#16 900#16 .on) = .next t) ∧
    (∃ t, exec (.hystEval { sample0 901#16 with c5 := 7#16 })
        { channel0 .sensorControlsValve 600#16 900#16 .on with
          comparator :=
            { (channel0 .sensorControlsValve 600#16 900#16 .on).comparator with
              operation := { State.reset.comparator.operation with c0 := .sensorControlsValve, c1 := .forceValveOn } } } = .next t) :=
  ⟨⟨_, rfl⟩, ⟨_, rfl⟩⟩

/-- H12, and the two ends of the band. -/
theorem test_witness_InvertedThresholdsToggle :
    (∃ t, exec (.hystEval (sample0 700#16)) (channel0 .sensorControlsValve 900#16 600#16 .on) = .next t) ∧
    (channel0 .sensorControlsValve 900#16 600#16 .on).comparator.operation.get 0 = .sensorControlsValve ∧
    (channel0 .sensorControlsValve 900#16 600#16 .on).comparator.lastState.get 0 = .known .on ∧
    (600#16).toNat < (900#16).toNat ∧ ((600#16).toNat < (601#16).toNat ∧ (899#16).toNat < (900#16).toNat) ∧
    (600#16).toNat ≤ (600#16).toNat ∧ (900#16).toNat ≤ (900#16).toNat :=
  ⟨⟨_, rfl⟩, rfl, rfl, by decide, by decide, by decide, by decide⟩

/-- H16 to H18. -/
theorem test_witness_EqualThresholdsHoldAtValue :
    (∃ t, exec (.hystEval (sample0 751#16)) (channel0 .sensorControlsValve 750#16 750#16 .on) = .next t) ∧
    (channel0 .sensorControlsValve 750#16 750#16 .on).comparator.operation.get 0 = .sensorControlsValve ∧
    (channel0 .sensorControlsValve 750#16 750#16 .on).comparator.lastState.get 0 = .known .on ∧
    (channel0 .sensorControlsValve 750#16 750#16 .on).comparator.minThreshold.get 0 = 750#16 ∧
    (channel0 .sensorControlsValve 750#16 750#16 .on).comparator.maxThreshold.get 0 = 750#16 ∧
    (750#16).toNat < (751#16).toNat ∧ (749#16).toNat < (750#16).toNat := ⟨⟨_, rfl⟩, rfl, rfl, rfl, rfl, by decide, by decide⟩

/-- W3: both channels at the edge of their band. -/
theorem test_witness_HysteresisIsStable :
    (∃ t, runOps ([sample0 900#16].map .hystEval) (channel0 .sensorControlsValve 600#16 900#16 .on) = .next t) ∧
    (∀ v ∈ [sample0 900#16], (v.get 0).toNat ≤ (900#16).toNat) ∧
    (∃ t, runOps ([sample0 600#16].map .hystEval) (channel0 .sensorControlsValve 600#16 900#16 .off) = .next t) ∧
    (∀ v ∈ [sample0 600#16], (600#16).toNat ≤ (v.get 0).toNat) := ⟨⟨_, rfl⟩, by decide, ⟨_, rfl⟩, by decide⟩

/-- A write to another channel in between. -/
theorem test_witness_ConfigRoundTrip :
    (∀ i ∈ [Instr.cfgWrite 1 (.named .disabled) 0#16 0#16], i ≠ .reset ∧ ∀ op' a b, i ≠ .cfgWrite 2 op' a b) ∧
    ∃ t, runOps [.cfgWrite 2 (.named .sensorControlsValve) 600#16 900#16, .cfgWrite 1 (.named .disabled) 0#16 0#16] State.reset
      = .next t := by
  refine ⟨?_, ⟨_, rfl⟩⟩
  intro i hi
  cases List.mem_singleton.mp hi
  refine ⟨by decide, fun op' a b h => ?_⟩
  cases h

theorem test_witness_ResetAbandonsPartialFrame :
    (List.replicate 254 0#8).length + 1 ≤ (rx .readPayload 5#8 2#8 []).maxPacketSize := by
  rw [List.length_replicate]; decide

/-- A completed operation that changes the codec, one that changes `last` and the valve, one that changes the configuration. -/
theorem test_witness_OnlyWritersWrite :
    (∃ t, exec (.rxByte 0xAA#8) State.reset = .next t ∧ t.codec ≠ State.reset.codec) ∧
    (∃ t, exec (.stateLoad 5 .on) State.reset = .next t ∧ t.comparator.lastState.get 5 ≠ State.reset.comparator.lastState.get 5 ∧
      t.valve.get 5 ≠ State.reset.valve.get 5) ∧
    (∃ t, exec (.cfgWrite 5 (.named .forceValveOn) 1#16 2#16) State.reset = .next t ∧
      t.comparator.operation.get 5 ≠ State.reset.comparator.operation.get 5) :=
  ⟨⟨_, rfl, by decide⟩, ⟨_, rfl, by decide, by decide⟩, ⟨_, rfl, by decide⟩⟩

/-- `any_on` changes in a pass. -/
theorem test_witness_OnlyWritersWrite_anyOn :
    ∃ t, exec (.hystEval (sample0 0#16)) (channel0 .forceValveOn 0#16 0#16 .off) = .next t ∧
      t.comparator.anyOn ≠ (channel0 .forceValveOn 0#16 0#16 .off).comparator.anyOn := ⟨_, rfl, by decide⟩

theorem test_witness_OutputsOnlyGrow :
    (∃ t, exec (.rxByte 0x90#8) (rx .readPayload 1#8 0#8 []) = .next t ∧ t.frames ≠ []) ∧
    ∃ t, exec (.txFrame 0x90#8 []) State.reset = .next t ∧ t.radio ≠ [] := ⟨⟨_, rfl, by decide⟩, ⟨_, rfl, by decide⟩⟩

theorem test_witness_UnsetOnlyByReset :
    ∃ t, exec .reset (channel0 .disabled 0#16 0#16 .off) = .next t ∧
      (channel0 .disabled 0#16 0#16 .off).comparator.lastState.get 5 ≠ .unset ∧ t.comparator.lastState.get 5 = .unset :=
  ⟨_, rfl, by decide, rfl⟩

theorem test_witness_OnlyTxFrameHolds :
    ∃ t, exec (.txFrame 0x90#8 []) busy = .next t ∧ busy.held = false ∧ t.held = true := ⟨_, rfl, rfl, rfl⟩

/-- T10's order of operations. -/
theorem test_witness_OtherOperationsDoNotDisturbReceive :
    ∃ t, runOps [.rxByte 0xAA#8, .txFrame 0x61#8 [], .rxByte 0x55#8] State.reset = .next t := ⟨_, rfl⟩

/-- A step whose operation completes and one whose operation is refused. -/
theorem test_witness_StepRunsDecodedInstruction :
    decodeRequest (encode (.rxByte 0xAA#8)) = .ok (.rxByte 0xAA#8) ∧
      (∃ t, exec (.rxByte 0xAA#8) { State.reset with caller := [encode (.rxByte 0xAA#8)] }.beginStep = .next t) ∧
      decodeRequest (encode .reservedOpA) = .ok .reservedOpA ∧
      ∃ q, exec .reservedOpA { State.reset with caller := [encode .reservedOpA] }.beginStep = .refused q :=
  ⟨by decide, ⟨_, rfl⟩, by decide, ⟨_, rfl⟩⟩

theorem test_witness_StepWithoutOperation :
    State.reset.caller = [] ∧
      decodeRequest { format := .op, bytes := [0x01#8] } = .error .truncated ∧
      decodeRequest { format := .op, bytes := [0x00#8, 0x01#8] } = .error .trailing := by decide

theorem test_witness_DecodeEncode : (Instr.cfgRead 255).wellFormed = true := by decide

theorem test_witness_DecodedBytesAreTheEncoding :
    decode .op [0x07#8, 0xFF#8, 0x12#8] = .ok (.cfgRead 255, [0x12#8]) := by decide

theorem test_witness_StepKeepsInvariant :
    Inv State.reset ∧ ∃ t, step (State.reset.withFetchWord 16 0xAA01) = .next t := by
  refine ⟨⟨?_, ⟨rfl, ?_⟩, ?_, ?_, ?_, ⟨[], ?_, rfl⟩⟩, ⟨_, rfl⟩⟩
  · intro h; cases h
  · intro c hc; cases hc
  · intro h; cases h
  · intro i l h
    revert i l
    intro i
    obtain ⟨i, hi⟩ := i
    intro l h
    match i, hi with
    | 0, _ => cases h
    | 1, _ => cases h
    | 2, _ => cases h
    | 3, _ => cases h
    | 4, _ => cases h
    | 5, _ => cases h
  · intro f hf; cases hf
  · intro x hx; cases hx

end Sys2Proof.Tests
end

section
/-! PROOFS. A step as the operation it runs (R10, R66): the step of a decoded request, the radio's move written out, and the
caller's move after the operation. -/

namespace Sys2Proof.Machine

/-- A step with a decoded request is the operation's outcome with the caller's move after it (R66). -/
theorem step_of_decodeRequest {s : State} {r : Request} {rest : List Request} {i : Instr} (hc : s.caller = r :: rest)
    (hi : decodeRequest r = .ok i) : step s = finishStep (exec i s.beginStep) := by
  simp only [step, hc, hi]

@[simp] theorem finishStep_next (t : State) : finishStep (.next t) = .next t.endStep := rfl
@[simp] theorem finishStep_refused (q : Refusal) : finishStep (.refused q) = .refused q := rfl

/-- The radio's move in one record: the scheduled level, if there is one, and the rest of the schedule (R24; log 6). -/
theorem State.sampleRadio_eq (s : State) :
    s.sampleRadio = { s with txBusy := s.txBusyNext.headD s.txBusy, txBusyNext := s.txBusyNext.tail } :=
  match s with
  | { txBusyNext := [], .. } => rfl
  | { txBusyNext := _ :: _, .. } => rfl

theorem State.beginStep_eq (s : State) :
    s.beginStep =
      { s with held := false, txBusy := s.txBusyNext.headD s.txBusy, txBusyNext := s.txBusyNext.tail } := by
  rw [State.beginStep, State.sampleRadio_eq]

/-- The caller's move when its queue is known: a held operation stays, any other leaves the queue (R88, R130). -/
theorem State.endStep_of_caller {s : State} {r : Request} {rest : List Request} (hc : s.caller = r :: rest) :
    s.endStep = if s.held then s else { s with caller := rest } := by
  rw [State.endStep, hc, List.tail_cons]

/-- No operation moves the caller's queue, nor does the radio's move before it. -/
theorem exec_beginStep_caller {i : Instr} {s t : State} (h : exec i s.beginStep = .next t) : t.caller = s.caller := by
  obtain ⟨-, -, hcaller, -⟩ := exec_sameInputs h
  rw [hcaller, State.beginStep_caller]

/-- Settles O47: the step is `finishStep` of the operation's outcome, and the operation leaves the caller's queue alone, so what
`endStep` drops is the request just run. -/
theorem stepRunsDecodedInstruction : Obligations.StepRunsDecodedInstruction := by
  intro s r rest i hc hi
  have hstep := step_of_decodeRequest hc hi
  refine ⟨fun t ht => ?next, fun q hq => ?refused, s.beginStep_eq⟩
  case next =>
    have htc : t.caller = r :: rest := (exec_beginStep_caller ht).trans hc
    rw [hstep, ht, finishStep_next, State.endStep_of_caller htc]
  case refused =>
    rw [hstep, hq, finishStep_refused]

end Sys2Proof.Machine
end

section
/-! PROOFS. The block's state between operations (spec/10_state.md): which operation writes which part of it, said once for the
codec, the comparator and the radio; from that the writers of each piece, the reset-only value, the state after reset, and the
invariant that every step keeps. -/

namespace Sys2Proof.Machine

/-! ## Who writes what -/

/-- A received byte leaves everything beside the codec and the frame output (R71). -/
theorem execRxByte_sameBesideCodec {b : Byte} {s t : State} (h : execRxByte b s = .next t) : SameBesideCodec s t := by
  rcases execRxByte_cases h with ⟨-, rfl⟩ | ⟨-, rfl⟩ | ⟨-, rfl⟩ |
    ⟨-, -, (⟨-, _, -, rfl⟩ | ⟨-, rfl⟩ | ⟨-, -, rfl⟩)⟩ <;> exact ⟨rfl, rfl, rfl, rfl, rfl, rfl, rfl, rfl, rfl⟩

/-- What an operation does to the codec and the frame output: RESET, RX_BYTE, or nothing (R81, R94). -/
theorem exec_codec_cases {i : Instr} {s t : State} (h : exec i s = .next t) :
    (i = .reset ∧ t.codec = s.resetCodec ∧ t.frames = s.frames) ∨
    (∃ b, i = .rxByte b ∧ execRxByte b s = .next t) ∨
    (t.codec = s.codec ∧ t.frames = s.frames) := by
  rcases exec_cases h with ⟨hi, rfl⟩ | hrx | ⟨_, _, -, -, (⟨-, rfl⟩ | ⟨-, rfl⟩)⟩ |
    ⟨_, _, _, _, -, _, _, -, -, rfl⟩ | ⟨_, _, -, _, -, rfl⟩ | ⟨_, -, _, -, rfl⟩ | ⟨-, _, rfl⟩
  case inl => exact .inl ⟨hi, rfl, rfl⟩
  case inr.inl => exact .inr (.inl hrx)
  all_goals exact .inr (.inr ⟨rfl, rfl⟩)

/-- What an operation does to the comparator and the valve pins: one of its four writers, or nothing (R31, R33, R34). -/
theorem exec_comparator_cases {i : Instr} {s t : State} (h : exec i s = .next t) :
    (i = .reset ∧ t.comparator = s.resetComparator ∧ t.valve = s.valve) ∨
    (∃ (j : Fin 6) (op : ModeOperand) (c : ChannelConfig), i = .cfgWrite j.val op c.min c.max ∧
      t.comparator = (s.writeConfig j c).comparator ∧ t.valve = s.valve) ∨
    (∃ (j : Fin 6) (l : Level), i = .stateLoad j.val l ∧
      t.comparator = (s.loadLevel j l).comparator ∧ t.valve = s.valve.set j l) ∨
    (∃ (v : Six Word) (new : Six Level) (anyOn : Bool), i = .hystEval v ∧
      t.comparator = (s.endPass new anyOn).comparator ∧ t.valve = new) ∨
    (t.comparator = s.comparator ∧ t.valve = s.valve) := by
  rcases exec_cases h with ⟨hi, rfl⟩ | ⟨b, -, hb⟩ | ⟨_, _, -, -, (⟨-, rfl⟩ | ⟨-, rfl⟩)⟩ |
    ⟨_, op, mn, mx, hi, j, m, rfl, -, rfl⟩ | ⟨_, l, hi, j, rfl, rfl⟩ | ⟨v, hi, new, -, rfl⟩ | ⟨-, _, rfl⟩
  case inl => exact .inl ⟨hi, rfl, rfl⟩
  case inr.inl =>
    obtain ⟨hcomparator, hvalve, -⟩ := execRxByte_sameBesideCodec hb
    exact .inr (.inr (.inr (.inr ⟨hcomparator, hvalve⟩)))
  case inr.inr.inr.inl => exact .inr (.inl ⟨j, op, ⟨m, mn, mx⟩, hi, rfl, rfl⟩)
  case inr.inr.inr.inr.inl => exact .inr (.inr (.inl ⟨j, l, hi, rfl, rfl⟩))
  case inr.inr.inr.inr.inr.inl => exact .inr (.inr (.inr (.inl ⟨v, new, _, hi, rfl, rfl⟩)))
  all_goals exact .inr (.inr (.inr (.inr ⟨rfl, rfl⟩)))

/-- What an operation does at the radio: nothing, or the one packet of a TX_FRAME (R93). -/
theorem exec_radio_cases {i : Instr} {s t : State} (h : exec i s = .next t) :
    t.radio = s.radio ∨
    ∃ cmd p, i = .txFrame cmd p ∧ p.length ≤ 254 ∧ t.radio = s.radio ++ packetEvents (wireFrame (forceOrigin cmd) p) := by
  rcases exec_cases h with ⟨-, rfl⟩ | ⟨b, -, hb⟩ | ⟨cmd, p, hi, hp, (⟨-, rfl⟩ | ⟨-, rfl⟩)⟩ |
    ⟨_, _, _, _, -, _, _, -, -, rfl⟩ | ⟨_, _, -, _, -, rfl⟩ | ⟨_, -, _, -, rfl⟩ | ⟨-, _, rfl⟩
  case inr.inl =>
    obtain ⟨-, -, hradio, -⟩ := execRxByte_sameBesideCodec hb
    exact .inl hradio
  case inr.inr.inl.inr => exact .inr ⟨cmd, p, hi, hp, rfl⟩
  all_goals exact .inl rfl

/-- What becomes of a channel's `last`: RESET makes it Unset, its other two writers make it known (R29, R31). -/
theorem exec_lastState_cases {i : Instr} {s t : State} (h : exec i s = .next t) (j : Fin 6) :
    i = .reset ∨
    (∃ l, t.comparator.lastState.get j = .known l ∧ (i = .stateLoad j.val l ∨ ∃ v, i = .hystEval v)) ∨
    t.comparator.lastState.get j = s.comparator.lastState.get j := by
  rcases exec_comparator_cases h with ⟨hi, -⟩ | ⟨k, _, _, -, hc, -⟩ | ⟨k, l, hi, hc, -⟩ | ⟨v, new, _, hi, hc, -⟩ | ⟨hc, -⟩
  case inl => exact .inl hi
  case inr.inl => exact .inr (.inr (by simp [hc]))
  case inr.inr.inl =>
    by_cases hjk : j = k
    · subst hjk
      exact .inr (.inl ⟨l, by simp [hc], .inl hi⟩)
    · exact .inr (.inr (by simp [hc, hjk]))
  case inr.inr.inr.inl => exact .inr (.inl ⟨new.get j, by simp [hc], .inr ⟨v, hi⟩⟩)
  case inr.inr.inr.inr => exact .inr (.inr (by rw [hc]))

/-- The writers of a channel's configuration (R31, R112). -/
theorem exec_config_cases {i : Instr} {s t : State} (h : exec i s = .next t) (j : Fin 6) :
    i = .reset ∨ (∃ op mn mx, i = .cfgWrite j.val op mn mx) ∨ t.channelConfig j = s.channelConfig j := by
  rcases exec_comparator_cases h with ⟨hi, -⟩ | ⟨k, op, c, hi, hc, -⟩ | ⟨_, _, -, hc, -⟩ | ⟨_, _, _, -, hc, -⟩ | ⟨hc, -⟩
  case inl => exact .inl hi
  case inr.inl =>
    by_cases hjk : j = k
    · subst hjk
      exact .inr (.inl ⟨op, c.min, c.max, hi⟩)
    · exact .inr (.inr (by simp [State.channelConfig, hc, hjk]))
  all_goals exact .inr (.inr (by simp [State.channelConfig, hc]))

/-- The writers of `any_on` (R34, R120). -/
theorem exec_anyOn_cases {i : Instr} {s t : State} (h : exec i s = .next t) :
    i = .reset ∨ (∃ v, i = .hystEval v) ∨ t.comparator.anyOn = s.comparator.anyOn := by
  rcases exec_comparator_cases h with ⟨hi, -⟩ | ⟨_, _, _, -, hc, -⟩ | ⟨_, _, -, hc, -⟩ | ⟨v, _, _, hi, -⟩ | ⟨hc, -⟩
  case inl => exact .inl hi
  case inr.inr.inr.inl => exact .inr (.inl ⟨v, hi⟩)
  all_goals exact .inr (.inr (by simp [hc]))

/-- The writers of a channel's valve level (R33, R146). -/
theorem exec_valve_cases {i : Instr} {s t : State} (h : exec i s = .next t) (j : Fin 6) :
    (∃ l, i = .stateLoad j.val l) ∨ (∃ v, i = .hystEval v) ∨ t.valve.get j = s.valve.get j := by
  rcases exec_comparator_cases h with ⟨-, -, hv⟩ | ⟨_, _, _, -, -, hv⟩ | ⟨k, l, hi, -, hv⟩ | ⟨v, _, _, hi, -⟩ | ⟨-, hv⟩
  case inr.inr.inl =>
    by_cases hjk : j = k
    · subst hjk
      exact .inl ⟨l, hi⟩
    · exact .inr (.inr (by simp [hv, hjk]))
  case inr.inr.inr.inl => exact .inr (.inl ⟨v, hi⟩)
  all_goals exact .inr (.inr (by rw [hv]))

/-- Settles O41: each piece has its cases lemma, whose last case says the piece did not change. -/
theorem onlyWritersWrite : Obligations.OnlyWritersWrite := by
  intro i s t h
  refine ⟨fun hne => ?codec, fun j hne => ?config, fun j hne => ?last, fun hne => ?anyOn, fun j hne => ?valve,
    exec_sameInputs h⟩
  case codec =>
    rcases exec_codec_cases h with ⟨hi, -⟩ | ⟨b, hi, -⟩ | ⟨heq, -⟩
    · exact .inl hi
    · exact .inr ⟨b, hi⟩
    · exact absurd heq hne
  case config =>
    rcases exec_config_cases h j with hi | hi | heq
    · exact .inl hi
    · exact .inr hi
    · obtain ⟨hop, hmin, hmax⟩ := ChannelConfig.mk.inj heq
      rcases hne with hne | hne | hne
      exacts [absurd hop hne, absurd hmin hne, absurd hmax hne]
  case last =>
    rcases exec_lastState_cases h j with hi | ⟨l, -, hi⟩ | heq
    · exact .inl hi
    · exact .inr (hi.imp_left fun hi => ⟨l, hi⟩)
    · exact absurd heq hne
  case anyOn => exact (exec_anyOn_cases h).imp_right fun hi => hi.resolve_right hne
  case valve => exact (exec_valve_cases h j).imp_right fun hi => hi.resolve_right hne

/-- Settles O43: of the writers of `last` only RESET writes Unset. -/
theorem unsetOnlyByReset : Obligations.UnsetOnlyByReset := by
  intro i s t j h hknown hunset
  rcases exec_lastState_cases h j with hi | ⟨l, hl, -⟩ | heq
  · exact hi
  · rw [hl] at hunset
    cases hunset
  · exact absurd (heq.symm.trans hunset) hknown

/-! ## The state after reset -/

section resetComparator

variable (s : State) (i : Fin 6)

@[simp] theorem State.resetComparator_operation :
    s.resetComparator.operation.get i = (s.params.initConfig.get i).op := Six.get_tabulate _ i
@[simp] theorem State.resetComparator_minThreshold :
    s.resetComparator.minThreshold.get i = (s.params.initConfig.get i).min := Six.get_tabulate _ i
@[simp] theorem State.resetComparator_maxThreshold :
    s.resetComparator.maxThreshold.get i = (s.params.initConfig.get i).max := Six.get_tabulate _ i
@[simp] theorem State.resetComparator_lastState : s.resetComparator.lastState.get i = .unset := Six.get_tabulate _ i
@[simp] theorem State.resetComparator_anyOn : s.resetComparator.anyOn = false := rfl

end resetComparator

/-- The comparator of the state after reset is the one a RESET leaves (R36, R144). -/
theorem State.reset_comparator : State.reset.comparator = State.reset.resetComparator := rfl

/-- Settles O38: the comparator is the one RESET leaves. -/
theorem resetStateValues : Obligations.ResetStateValues := by
  unfold Obligations.ResetStateValues
  rw [State.reset_comparator]
  exact ⟨rfl,
    fun i => ⟨State.resetComparator_operation _ i, State.resetComparator_minThreshold _ i,
      State.resetComparator_maxThreshold _ i, State.resetComparator_lastState _ i⟩,
    State.resetComparator_anyOn _⟩

/-! ## The invariant: the parts of the state it speaks of -/

theorem CodecInv.of_rxState_ne {s : State} (h : s.codec.rxState ≠ .readPayload) : CodecInv s :=
  fun hr => absurd hr h

theorem WrittenInv.of_rxState_ne {s : State} (h : s.codec.rxState ≠ .readPayload) : WrittenInv s :=
  fun hr => absurd hr h

theorem BufInv.of_buf_nil {s : State} (h : s.codec.buf = []) : BufInv s := by
  simp [BufInv, h, Memory.wf]

theorem ValveInv.of_unset {s : State} (h : ∀ i, s.comparator.lastState.get i = .unset) : ValveInv s := by
  intro i l hl
  rw [h i] at hl
  cases hl

/-- The receive side of the invariant, which only the codec and the parameters decide. -/
structure ReceiveInv (s : State) : Prop where
  codec   : CodecInv s
  buf     : BufInv s
  written : WrittenInv s

/-- Outside ReadPayload only the buffer's form matters. -/
theorem ReceiveInv.of_rxState_ne {s : State} (hne : s.codec.rxState ≠ .readPayload) (hbuf : BufInv s) : ReceiveInv s :=
  ⟨.of_rxState_ne hne, hbuf, .of_rxState_ne hne⟩

/-- In WaitSync1 with nothing written: the codec that a reset leaves. -/
theorem ReceiveInv.of_abandoned {s : State} (hrx : s.codec.rxState = .waitSync1) (hbuf : s.codec.buf = []) :
    ReceiveInv s :=
  .of_rxState_ne (by simp [hrx]) (.of_buf_nil hbuf)

theorem maxPacketSize_congr {s t : State} (hp : t.params = s.params) : t.maxPacketSize = s.maxPacketSize :=
  congrArg Params.maxPacketSize hp

theorem ReceiveInv.congr {s t : State} (hc : t.codec = s.codec) (hp : t.params = s.params) (h : ReceiveInv s) :
    ReceiveInv t := by
  obtain ⟨hcodec, hbuf, hwritten⟩ := h
  constructor
  · simpa only [CodecInv, hc, maxPacketSize_congr hp] using hcodec
  · simpa only [BufInv, hc, maxPacketSize_congr hp] using hbuf
  · simpa only [WrittenInv, hc] using hwritten

theorem ValveInv.congr {s t : State} (hl : t.comparator.lastState = s.comparator.lastState) (hv : t.valve = s.valve)
    (h : ValveInv s) : ValveInv t := by
  simpa only [ValveInv, hl, hv] using h

theorem FramesInv.congr {s t : State} (hf : t.frames = s.frames) (hp : t.params = s.params) (h : FramesInv s) :
    FramesInv t := by
  simpa only [FramesInv, hf, maxPacketSize_congr hp] using h

theorem RadioInv.congr {s t : State} (hr : t.radio = s.radio) (h : RadioInv s) : RadioInv t := by
  simpa only [RadioInv, hr] using h

theorem Inv.receive {s : State} (h : Inv s) : ReceiveInv s := ⟨h.codec, h.buf, h.written⟩

theorem Inv.of_parts {s : State} (hr : ReceiveInv s) (hv : ValveInv s) (hf : FramesInv s) (ht : RadioInv s) : Inv s :=
  ⟨hr.codec, hr.buf, hr.written, hv, hf, ht⟩

/-- The invariant speaks of the block, the outputs, the pins and the parameters only. -/
theorem Inv.congr {s t : State} (hc : t.codec = s.codec) (hm : t.comparator = s.comparator) (hv : t.valve = s.valve)
    (hf : t.frames = s.frames) (hr : t.radio = s.radio) (hp : t.params = s.params) (h : Inv s) : Inv t :=
  .of_parts (h.receive.congr hc hp) (h.valve.congr (congrArg _ hm) hv) (h.frames.congr hf hp) (h.radio.congr hr)

/-- Settles O52: nothing is being received, nothing is known of a channel, nothing has gone out. -/
theorem invariantAtReset : Obligations.InvariantAtReset := by
  refine .of_parts (.of_abandoned rfl rfl) (.of_unset fun i => ?_) (fun f hf => ?_) ⟨[], fun x hx => ?_, rfl⟩
  · rw [State.reset_comparator, State.resetComparator_lastState]
  · cases hf
  · cases hx

/-! ## The invariant: a received byte -/

/-- The latched length fits the buffer (R74). -/
theorem clampLength_le (p : Params) (len : Byte) : (clampLength p len).toNat ≤ p.maxPacketSize := by
  rw [clampLength, BitVec.toNat_ofNat]
  exact (Nat.mod_le _ _).trans (Nat.min_le_right _ _)

/-- The count after the increment of R75 has not wrapped, since it was below MAX_PACKET_SIZE (R6). -/
theorem toNat_count_add_one {s : State} (h : s.codec.count.toNat < s.maxPacketSize) :
    (s.codec.count + 1#8).toNat = s.codec.count.toNat + 1 := by
  have hmax := s.maxPacketSize_le
  rw [BitVec.toNat_add, BitVec.toNat_ofNat]
  omega

/-- A byte stored inside the buffer keeps its form and its bounds (R37, R38). -/
theorem BufInv.stored {s : State} {b : Byte} (hlt : s.codec.count.toNat < s.maxPacketSize) (h : BufInv s) :
    BufInv (s.stored b) := by
  obtain ⟨hwf, hbound⟩ := h
  refine ⟨Memory.wf_set _ _ hwf, fun c hc => ?_⟩
  rcases Memory.mem_set hc with rfl | hc
  · exact hlt
  · exact hbound c hc

/-- The byte stored is the one the count now takes in (R22, R75). -/
theorem WrittenInv.stored {s : State} {b : Byte} (hlt : s.codec.count.toNat < s.maxPacketSize) (h : WrittenInv s) :
    WrittenInv (s.stored b) := by
  intro hr k hk
  rw [stored_codec, toNat_count_add_one hlt] at hk
  rw [stored_codec]
  by_cases hkc : k = s.codec.count.toNat
  · subst hkc
    simp
  · rw [Memory.get_set_other _ _ hkc]
    exact h hr k (by omega)

/-- A payload byte that neither completes nor overruns the frame leaves the count below the declared length (R75, R86). -/
theorem CodecInv.stored {s : State} {b : Byte} (hne : s.codec.count + 1#8 ≠ s.codec.declaredLen)
    (hle : ¬ s.codec.declaredLen < s.codec.count + 1#8) (h : CodecInv s) : CodecInv (s.stored b) := by
  intro hr
  obtain ⟨hlen, -⟩ := h hr
  have hbelow : s.codec.count + 1#8 < s.codec.declaredLen := by bv_omega
  exact ⟨hlen, .inl hbelow⟩

/-- A received byte keeps the receive side of the invariant: the sync states have nothing to say, READ_LENGTH clamps (R74), and
READ_PAYLOAD stores inside the buffer (R75, R86). -/
theorem execRxByte_keeps_receiveInv {b : Byte} {s t : State} (hinv : ReceiveInv s) (h : execRxByte b s = .next t) :
    ReceiveInv t := by
  obtain ⟨hcodec, hbuf, hwritten⟩ := hinv
  rcases execRxByte_cases h with ⟨-, rfl⟩ | ⟨-, rfl⟩ | ⟨-, rfl⟩ | ⟨-, hlt, hafter⟩
  · exact .of_rxState_ne (by simp only [State.returning_codec, State.enterRx_codec]; split <;> simp) hbuf
  · exact .of_rxState_ne (by simp only [State.returning_codec, State.enterRx_codec]; split <;> simp) hbuf
  · refine ⟨fun _ => ⟨clampLength_le s.params b, ?_⟩, hbuf, fun _ k hk => absurd hk (Nat.not_lt_zero k)⟩
    by_cases hzero : clampLength s.params b = 0#8
    · exact .inr ⟨rfl, hzero⟩
    · exact .inl (Nat.pos_of_ne_zero fun h => hzero (BitVec.eq_of_toNat_eq h))
  · rcases hafter with ⟨-, _, -, rfl⟩ | ⟨-, rfl⟩ | ⟨hne, hle, rfl⟩
    · exact .of_rxState_ne (by simp) (hbuf.stored hlt)
    · exact .of_rxState_ne (by simp) (hbuf.stored hlt)
    · exact .congr rfl rfl ⟨hcodec.stored hne hle, hbuf.stored hlt, hwritten.stored hlt⟩

/-- A completed frame carries its payload's length, when its declared length is not 0 and fits the buffer (R55). -/
theorem completedFrame_payload {s : State} {f : Frame} (hpos : 0 < s.codec.declaredLen.toNat)
    (hle : s.codec.declaredLen.toNat ≤ s.maxPacketSize) (h : completedFrame s = .ok f) :
    f.payload.length = f.payloadLength.toNat ∧ f.payload.length < s.maxPacketSize := by
  rw [completedFrame_of_le hle] at h
  cases h
  simp only [List.length_map, List.length_range']
  exact ⟨by bv_omega, by omega⟩

/-- The frame a received byte completes is one of those the invariant allows (R55, R76, R86). -/
theorem execRxByte_keeps_framesInv {b : Byte} {s t : State} (hcodec : CodecInv s) (hframes : FramesInv s)
    (h : execRxByte b s = .next t) : FramesInv t := by
  rcases execRxByte_cases h with ⟨-, rfl⟩ | ⟨-, rfl⟩ | ⟨-, rfl⟩ |
    ⟨hr, hlt, (⟨hdone, f, hf, rfl⟩ | ⟨-, rfl⟩ | ⟨-, -, rfl⟩)⟩
  case inr.inr.inr.inl =>
    obtain ⟨hlen, -⟩ := hcodec hr
    have hpos : 0 < s.codec.declaredLen.toNat := by
      rw [← hdone, toNat_count_add_one hlt]
      exact Nat.succ_pos _
    intro g hg
    rcases List.mem_append.mp hg with hg | hg
    · exact hframes g hg
    · rw [List.mem_singleton.mp hg]
      exact completedFrame_payload (s := s.stored b) hpos hlen hf
  all_goals exact hframes.congr rfl rfl

/-! ## The invariant: every operation and every step -/

@[simp] theorem originBits_forceOrigin (cmd : Byte) : originBits (forceOrigin cmd) = 0b10#2 := by
  revert cmd; decide

theorem exec_keeps_receiveInv {i : Instr} {s t : State} (hinv : ReceiveInv s) (h : exec i s = .next t) : ReceiveInv t := by
  obtain ⟨-, -, -, hparams⟩ := exec_sameInputs h
  rcases exec_codec_cases h with ⟨-, hc, -⟩ | ⟨b, -, hb⟩ | ⟨hc, -⟩
  · exact .of_abandoned (by rw [hc]; rfl) (by rw [hc]; rfl)
  · exact execRxByte_keeps_receiveInv hinv hb
  · exact hinv.congr hc hparams

theorem exec_keeps_framesInv {i : Instr} {s t : State} (hcodec : CodecInv s) (hframes : FramesInv s)
    (h : exec i s = .next t) : FramesInv t := by
  obtain ⟨-, -, -, hparams⟩ := exec_sameInputs h
  rcases exec_codec_cases h with ⟨-, -, hf⟩ | ⟨b, -, hb⟩ | ⟨-, hf⟩
  · exact hframes.congr hf hparams
  · exact execRxByte_keeps_framesInv hcodec hframes hb
  · exact hframes.congr hf hparams

/-- `last` and the valve move together: the two writers of a known level drive the pin with it (R33, R114, R115). -/
theorem exec_keeps_valveInv {i : Instr} {s t : State} (hinv : ValveInv s) (h : exec i s = .next t) : ValveInv t := by
  rcases exec_comparator_cases h with ⟨-, hc, -⟩ | ⟨_, _, _, -, hc, hv⟩ | ⟨j, l, -, hc, hv⟩ | ⟨_, new, _, -, hc, hv⟩ | ⟨hc, hv⟩
  · exact .of_unset fun i => by rw [hc, State.resetComparator_lastState]
  · exact hinv.congr (by simp [hc]) hv
  · intro k m hk
    rw [hv, Six.get_set]
    rw [hc, State.loadLevel_comparator, Six.get_set] at hk
    split at hk
    · next hkj =>
      cases hk
      exact if_pos hkj
    · next hkj =>
      rw [if_neg hkj]
      exact hinv k m hk
  · intro k m hk
    rw [hc, State.endPass_comparator, Six.get_tabulate] at hk
    cases hk
    rw [hv]
  · exact hinv.congr (by rw [hc]) hv

/-- What a TX_FRAME adds at the radio is one more packet of origin MODULE (R61, R91, R93). -/
theorem exec_keeps_radioInv {i : Instr} {s t : State} (hinv : RadioInv s) (h : exec i s = .next t) : RadioInv t := by
  rcases exec_radio_cases h with hr | ⟨cmd, p, -, hp, hr⟩
  · exact hinv.congr hr
  · obtain ⟨sent, hsent, hradio⟩ := hinv
    refine ⟨sent ++ [(forceOrigin cmd, p)], fun x hx => ?_, by simp [hr, hradio]⟩
    rcases List.mem_append.mp hx with hx | hx
    · exact hsent x hx
    · rw [List.mem_singleton.mp hx]
      exact ⟨originBits_forceOrigin cmd, hp⟩

theorem exec_keeps_inv {i : Instr} {s t : State} (hinv : Inv s) (h : exec i s = .next t) : Inv t :=
  .of_parts (exec_keeps_receiveInv hinv.receive h) (exec_keeps_valveInv hinv.valve h)
    (exec_keeps_framesInv hinv.codec hinv.frames h) (exec_keeps_radioInv hinv.radio h)

theorem Inv.beginStep {s : State} (h : Inv s) : Inv s.beginStep :=
  h.congr (by simp) (by simp) (by simp) (by simp) (by simp) (by simp)

theorem Inv.endStep {s : State} (h : Inv s) : Inv s.endStep :=
  h.congr (by simp) (by simp) (by simp) (by simp) (by simp) (by simp)

/-- Settles O53: the radio's move before the operation and the caller's after it touch nothing the invariant speaks of, and every
operation keeps each of its parts. -/
theorem stepKeepsInvariant : Obligations.StepKeepsInvariant := by
  intro s t hinv h
  rcases step_cases h with ⟨-, rfl⟩ | ⟨_, _, i, u, -, -, hu, rfl⟩
  · exact hinv.beginStep
  · exact (exec_keeps_inv hinv.beginStep hu).endStep

end Sys2Proof.Machine
end

section
/-! PROOFS. The outputs (spec/20_memory.md): handed-out frames and radio events are only appended, each by its one operation. -/

namespace Sys2Proof.Machine

/-- What a received byte does to the frame output: nothing, or the frame it completed in READ_PAYLOAD (R76, R80). -/
theorem execRxByte_frames_cases {b : Byte} {s t : State} (h : execRxByte b s = .next t) :
    t.frames = s.frames ∨
    ∃ f, s.codec.rxState = .readPayload ∧ s.codec.count + 1#8 = s.codec.declaredLen ∧
      completedFrame (s.stored b) = .ok f ∧ t.frames = s.frames ++ [f] := by
  rcases execRxByte_cases h with ⟨-, rfl⟩ | ⟨-, rfl⟩ | ⟨-, rfl⟩ |
    ⟨hr, -, (⟨hdone, f, hf, rfl⟩ | ⟨-, rfl⟩ | ⟨-, -, rfl⟩)⟩
  case inr.inr.inr.inl => exact .inr ⟨f, hr, hdone, hf, rfl⟩
  all_goals exact .inl rfl

/-- What an operation does to the frame output: nothing, or the one frame of an RX_BYTE (R51, R80). -/
theorem exec_frames_cases {i : Instr} {s t : State} (h : exec i s = .next t) :
    t.frames = s.frames ∨ ∃ b f, i = .rxByte b ∧ t.frames = s.frames ++ [f] := by
  rcases exec_codec_cases h with ⟨-, -, hf⟩ | ⟨b, hi, hb⟩ | ⟨-, hf⟩
  · exact .inl hf
  · exact (execRxByte_frames_cases hb).imp_right fun ⟨f, _, _, _, hf⟩ => ⟨b, f, hi, hf⟩
  · exact .inl hf

/-- Settles O42: what is appended is nothing, or the one frame of an RX_BYTE (R80), or the one packet of a TX_FRAME (R93). -/
theorem outputsOnlyGrow : Obligations.OutputsOnlyGrow := by
  intro i s t h
  refine ⟨?frames, ?radio⟩
  case frames =>
    rcases exec_frames_cases h with hf | ⟨b, f, hi, hf⟩
    · exact ⟨[], by rw [hf, List.append_nil], Nat.zero_le 1, fun hne => absurd rfl hne⟩
    · exact ⟨[f], hf, Nat.le_refl 1, fun _ => ⟨b, hi⟩⟩
  case radio =>
    rcases exec_radio_cases h with hr | ⟨cmd, p, hi, -, hr⟩
    · exact ⟨[], by rw [hr, List.append_nil], fun hne => absurd rfl hne⟩
    · exact ⟨_, hr, fun _ => ⟨cmd, p, hi⟩⟩

end Sys2Proof.Machine
end

section
/-! PROOFS. Reception of a wire frame (R52, R53, R76): the transitions up to the length, the bytes received so far as what the
buffer reads, and the induction over the bytes still to come. -/

namespace Sys2Proof.Machine

/-! ## What a run of received bytes leaves -/

theorem SameBesideCodec.refl (s : State) : SameBesideCodec s s := ⟨rfl, rfl, rfl, rfl, rfl, rfl, rfl, rfl, rfl⟩

theorem SameBesideCodec.trans {s t u : State} (h : SameBesideCodec s t) (h' : SameBesideCodec t u) :
    SameBesideCodec s u := by
  simp_all only [SameBesideCodec, SameInputs, and_self]

/-- Received bytes leave everything beside the codec and the frame output (R67, R71). -/
theorem runOps_rxBytes_sameBesideCodec {bs : List Byte} {s t : State} (h : runOps (rxBytes bs) s = .next t) :
    SameBesideCodec s t := by
  induction bs generalizing s with
  | nil => cases h; exact .refl _
  | cons b bs ih =>
    obtain ⟨u, hu, ht⟩ := runOps_cons_cases h
    exact (execRxByte_sameBesideCodec hu).trans (ih ht)

theorem runOps_rxBytes_cons {b : Byte} {bs : List Byte} {s t : State} (h : execRxByte b s = .next t) :
    runOps (rxBytes (b :: bs)) s = runOps (rxBytes bs) t := runOps_cons_next h

/-! ## What each state does with a byte (R72 to R75) -/

theorem execRxByte_sync1 {s : State} (h : s.codec.rxState = .waitSync1) :
    execRxByte Config.sync1 s = .next ((s.enterRx .waitSync2).returning .none) := by
  simp only [execRxByte, h, if_true]

theorem execRxByte_sync2 {s : State} (h : s.codec.rxState = .waitSync2) :
    execRxByte Config.sync2 s = .next ((s.enterRx .readLength).returning .none) := by
  simp only [execRxByte, h, if_true]

theorem execRxByte_readLength {s : State} (h : s.codec.rxState = .readLength) (b : Byte) :
    execRxByte b s =
      .next ((((s.setDeclaredLen (clampLength s.params b)).setCount 0#8).enterRx .readPayload).returning .none) := by
  simp only [execRxByte, h]

theorem execRxByte_readPayload {s : State} (h : s.codec.rxState = .readPayload)
    (hlt : s.codec.count.toNat < s.maxPacketSize) (b : Byte) : execRxByte b s = rxAfterStore (s.stored b) := by
  simp only [execRxByte, h, rxPayload_of_lt hlt]

/-! ## The frame's bytes, read back from the buffer -/

/-- The frame record of a command byte and a payload (R55). -/
def frameOf (cmd : Byte) (payload : List Byte) : Frame :=
  { commandByte := cmd, payload := payload, payloadLength := BitVec.ofNat 8 payload.length }

/-- The frame handed out, when the entries of the buffer read as a command byte and a payload (R55, R76). -/
theorem completedFrame_of_entries {s : State} {cmd : Byte} {payload : List Byte}
    (hlen : s.codec.declaredLen.toNat = payload.length + 1) (hmax : payload.length + 1 ≤ s.maxPacketSize)
    (hbuf : (List.range' 0 (payload.length + 1)).map s.bufByte = cmd :: payload) :
    completedFrame s = .ok (frameOf cmd payload) := by
  rw [List.range'_succ, List.map_cons] at hbuf
  obtain ⟨hcmd, hpayload⟩ := List.cons.inj hbuf
  have hcount : s.codec.declaredLen - 1#8 = BitVec.ofNat 8 payload.length := by
    apply BitVec.eq_of_toNat_eq
    simp only [BitVec.toNat_sub, BitVec.toNat_ofNat]
    omega
  rw [completedFrame_of_le (hlen ▸ hmax), hcount, hlen, Nat.add_sub_cancel, hcmd, hpayload, frameOf]

/-- A frame of `len` bytes after LEN is being received and `got` are the bytes of it so far: they are what the buffer reads from
its start (R22, R75). -/
structure Receiving (s : State) (len : Nat) (got : List Byte) : Prop where
  rxState : s.codec.rxState = .readPayload
  fits : len ≤ s.maxPacketSize
  declared : s.codec.declaredLen.toNat = len
  count : s.codec.count.toNat = got.length
  entries : (List.range' 0 got.length).map s.bufByte = got

/-- A byte stored behind those received so far is read back behind them. -/
theorem Receiving.entries_stored {s : State} {len : Nat} {got : List Byte} (h : Receiving s len got) (b : Byte) :
    (List.range' 0 (got ++ [b]).length).map (s.stored b).bufByte = got ++ [b] := by
  have hbefore : (List.range' 0 got.length).map (s.stored b).bufByte = (List.range' 0 got.length).map s.bufByte := by
    refine List.map_congr_left fun k hk => ?_
    have hlt : k < got.length := by simpa using hk
    rw [stored_bufByte, h.count, if_neg hlt.ne]
  rw [List.length_append, List.length_singleton, List.range'_1_concat, List.map_append, hbefore, h.entries]
  simp [stored_bufByte, h.count]

/-- One more byte of the frame, not the last: it is stored, and nothing is handed out (R75). -/
theorem Receiving.next_byte {s : State} {len : Nat} {got : List Byte} (h : Receiving s len got) (b : Byte)
    (hmore : got.length + 1 < len) :
    ∃ t, execRxByte b s = .next t ∧ Receiving t len (got ++ [b]) ∧ t.frames = s.frames := by
  have hlt : s.codec.count.toNat < s.maxPacketSize := h.count.trans_lt ((Nat.lt_of_succ_lt hmore).trans_le h.fits)
  have hcount : (s.codec.count + 1#8).toNat = got.length + 1 := by rw [toNat_count_add_one hlt, h.count]
  refine ⟨(s.stored b).returning .none, ?_, ⟨h.rxState, h.fits, h.declared, ?_, h.entries_stored b⟩, rfl⟩
  · have hne : s.codec.count + 1#8 ≠ s.codec.declaredLen := fun heq => by
      rw [heq, h.declared] at hcount
      omega
    have hle : ¬ s.codec.declaredLen < s.codec.count + 1#8 := by
      rw [BitVec.lt_def, hcount, h.declared]
      omega
    rw [execRxByte_readPayload h.rxState hlt, rxAfterStore, stored_codec, if_neg hne, if_neg hle]
  · rw [List.length_append]; exact hcount

/-- The last byte of the frame: the bytes received are handed out as the frame (R55, R76). -/
theorem Receiving.last_byte {s : State} {got : List Byte} {b cmd : Byte} {payload : List Byte}
    (h : Receiving s (payload.length + 1) got) (hall : got ++ [b] = cmd :: payload) :
    ∃ t, execRxByte b s = .next t ∧
      t.frames = s.frames ++ [frameOf cmd payload] ∧
      t.codec.rxState = .waitSync1 := by
  have hlen : got.length = payload.length := by simpa using congrArg List.length hall
  have hlt : s.codec.count.toNat < s.maxPacketSize := (h.count.trans hlen).trans_lt h.fits
  have hdone : s.codec.count + 1#8 = s.codec.declaredLen := by
    apply BitVec.eq_of_toNat_eq
    rw [toNat_count_add_one hlt, h.count, h.declared, hlen]
  have hentries := h.entries_stored b
  rw [hall] at hentries
  have hframe := completedFrame_of_entries (s := s.stored b) h.declared h.fits hentries
  refine ⟨((s.stored b).enterRx .waitSync1).handOut _, ?_, rfl, rfl⟩
  rw [execRxByte_readPayload h.rxState hlt, rxAfterStore, stored_codec, if_pos hdone, hframe]

/-- The bytes of the frame still to come, at least one, complete it: all but the last are stored, the last hands it out. -/
theorem Receiving.run {rest : List Byte} {s : State} {got : List Byte} {cmd : Byte} {payload : List Byte}
    (h : Receiving s (payload.length + 1) got) (hne : rest ≠ []) (hall : got ++ rest = cmd :: payload) :
    ∃ t, runOps (rxBytes rest) s = .next t ∧
      t.frames = s.frames ++ [frameOf cmd payload] ∧
      t.codec.rxState = .waitSync1 := by
  induction rest generalizing s got with
  | nil => exact absurd rfl hne
  | cons b rest ih =>
    cases rest with
    | nil =>
      obtain ⟨t, ht, hout⟩ := h.last_byte hall
      exact ⟨t, runOps_rxBytes_cons ht, hout⟩
    | cons b' rest =>
      have hlen := congrArg List.length hall
      simp only [List.length_append, List.length_cons] at hlen
      obtain ⟨u, hu, hreceiving, hframes⟩ := h.next_byte b (by omega)
      rw [runOps_rxBytes_cons hu, ← hframes]
      exact ih hreceiving (List.cons_ne_nil b' rest) (by rw [List.append_assoc]; exact hall)

/-! ## From the first sync byte to the length -/

/-- The latched length is the minimum itself, which fits a byte (R6, R74). -/
theorem toNat_clampLength (p : Params) (len : Byte) : (clampLength p len).toNat = min len.toNat p.maxPacketSize := by
  rw [clampLength, BitVec.toNat_ofNat]
  exact Nat.mod_eq_of_lt ((Nat.min_le_left _ _).trans_lt len.isLt)

/-- The length byte starts a frame of `min(LEN, MAX_PACKET_SIZE)` bytes, none of them received yet (R74). -/
theorem receiving_of_readLength {s : State} (hs : s.codec.rxState = .readLength) (len : Byte) :
    ∃ u, execRxByte len s = .next u ∧ Receiving u (min len.toNat s.maxPacketSize) [] ∧ u.frames = s.frames :=
  ⟨_, execRxByte_readLength hs len,
    ⟨rfl, Nat.min_le_right _ _, toNat_clampLength s.params len, rfl, rfl⟩, rfl⟩

/-- AA 55 LEN in WaitSync1 start the frame (R72 to R74). -/
theorem receiving_of_header {s : State} (hs : s.codec.rxState = .waitSync1) (len : Byte) (bs : List Byte) :
    ∃ u, runOps (rxBytes (Config.sync1 :: Config.sync2 :: len :: bs)) s = runOps (rxBytes bs) u ∧
      Receiving u (min len.toNat s.maxPacketSize) [] ∧ u.frames = s.frames := by
  have hsync2 := execRxByte_sync2 (s := (s.enterRx .waitSync2).returning .none) rfl
  obtain ⟨u, hlength, hreceiving⟩ :=
    receiving_of_readLength (s := (((s.enterRx .waitSync2).returning .none).enterRx .readLength).returning .none) rfl len
  exact ⟨u, by rw [runOps_rxBytes_cons (execRxByte_sync1 hs), runOps_rxBytes_cons hsync2, runOps_rxBytes_cons hlength],
    hreceiving⟩

/-- A whole frame whose clamped length is that of the bytes after LEN is handed out (R76, R78). -/
theorem receive_frame {s : State} (hs : s.codec.rxState = .waitSync1) {len cmd : Byte} {payload : List Byte}
    (hlen : min len.toNat s.maxPacketSize = payload.length + 1) :
    ∃ t, runOps (rxBytes (Config.sync1 :: Config.sync2 :: len :: cmd :: payload)) s = .next t ∧
      t.frames = s.frames ++ [frameOf cmd payload] ∧
      t.codec.rxState = .waitSync1 ∧ SameBesideCodec s t := by
  obtain ⟨u, hu, hreceiving, hframes⟩ := receiving_of_header hs len (cmd :: payload)
  rw [hlen] at hreceiving
  obtain ⟨t, ht, hout, hrx⟩ := hreceiving.run (List.cons_ne_nil cmd payload) (List.nil_append _)
  have hrun := hu.trans ht
  exact ⟨t, hrun, hframes ▸ hout, hrx, runOps_rxBytes_sameBesideCodec hrun⟩

/-- Settles O12: LEN `n + 1` fits the buffer, so nothing is clamped, and the bytes after it are read back from the buffer. -/
theorem wireFrameIsReassembled : Obligations.WireFrameIsReassembled := by
  intro s cmd payload hs hfits
  have hmax := s.maxPacketSize_le
  refine receive_frame hs ?_
  rw [BitVec.toNat_ofNat, Nat.mod_eq_of_lt (by omega), Nat.min_eq_left hfits]

end Sys2Proof.Machine
end

section
/-! PROOFS. The decoder and the encoder of a request (R56 to R64; operand layout of log 2). Each reader has one rule: it answers a
value and a rest exactly when the bytes are that value's bytes and the rest. Both directions of the encoding follow. -/

namespace Sys2Proof

/-! ## The rules of the operand readers -/

@[simp] theorem andThen_eq_ok {α β : Type} {r : Reading α} {f : α → List Byte → Reading β} {x : β × List Byte} :
    andThen r f = .ok x ↔ ∃ a bs, r = .ok (a, bs) ∧ f a bs = .ok x := by
  refine ⟨andThen_cases, ?_⟩
  rintro ⟨a, bs, rfl, h⟩
  exact h

@[simp] theorem readByte_eq_ok {bs rest : List Byte} {b : Byte} : readByte bs = .ok (b, rest) ↔ bs = b :: rest := by
  cases bs <;> simp [readByte]

/-- Two bytes are the word's bytes exactly when, the second above the first, they are the word (log 2). -/
theorem append_eq_iff_wordBytes {lo hi : Byte} {w : Word} : hi ++ lo = w ↔ [lo, hi] = wordBytes w := by
  constructor
  · rintro rfl
    rw [wordBytes, BitVec.extractLsb'_append_eq_left, BitVec.extractLsb'_append_eq_right]
  · intro h
    cases h
    exact BitVec.extractLsb'_append_extractLsb' (w := 8) (len := 8)

@[simp] theorem readWord_eq_ok {bs rest : List Byte} {w : Word} :
    readWord bs = .ok (w, rest) ↔ bs = wordBytes w ++ rest := by
  match bs with
  | [] => simp [readWord, wordBytes]
  | [_] => simp [readWord, wordBytes]
  | lo :: hi :: bs =>
    have h := append_eq_iff_wordBytes (lo := lo) (hi := hi) (w := w)
    simp only [wordBytes, List.cons.injEq, and_true] at h
    simp [readWord, wordBytes, h, and_assoc]

@[simp] theorem readBytes_eq_ok {n : Nat} {bs p rest : List Byte} :
    readBytes n bs = .ok (p, rest) ↔ p.length = n ∧ bs = p ++ rest := by
  induction n generalizing bs p with
  | zero =>
    simp only [readBytes, List.length_eq_zero_iff]
    constructor
    · intro h
      cases h
      exact ⟨rfl, rfl⟩
    · rintro ⟨rfl, rfl⟩
      rfl
  | succ n ih =>
    simp only [readBytes, andThen_eq_ok, readByte_eq_ok]
    constructor
    · rintro ⟨b, _, rfl, more, _, hmore, h⟩
      cases h
      obtain ⟨rfl, rfl⟩ := ih.mp hmore
      exact ⟨rfl, rfl⟩
    · rintro ⟨hlen, rfl⟩
      obtain ⟨b, more, rfl⟩ := List.exists_cons_of_length_eq_add_one hlen
      exact ⟨b, _, rfl, more, _, ih.mpr ⟨Nat.succ.inj hlen, rfl⟩, rfl⟩

/-- A byte is known by its number. -/
theorem cons_eq_of_toNat {b c : Byte} {rest : List Byte} (h : b.toNat = c.toNat) : b :: rest = c :: rest := by
  rw [BitVec.eq_of_toNat_eq h]

/-- The rule of a one-byte operand, from its reading `f` and its code `tag`: `f` answers a value only from the value's code, and
answers it from that. -/
theorem andThen_readByte_eq_ok {α : Type} {f : Byte → List Byte → Reading α} {tag : α → Byte}
    (hread : ∀ b bs a rest, f b bs = .ok (a, rest) → b.toNat = (tag a).toNat ∧ bs = rest)
    (htag : ∀ a bs, f (tag a) bs = .ok (a, bs)) {bs rest : List Byte} {a : α} :
    andThen (readByte bs) f = .ok (a, rest) ↔ bs = tag a :: rest := by
  constructor
  · intro h
    obtain ⟨b, bs', hb, hf⟩ := andThen_cases h
    obtain ⟨hcode, rfl⟩ := hread b bs' a rest hf
    rw [readByte_eq_ok.mp hb]
    exact cons_eq_of_toNat hcode
  · rintro rfl
    exact htag a rest

@[simp] theorem readDest_eq_ok {bs rest : List Byte} {d : Dest} :
    readDest bs = .ok (d, rest) ↔ bs = destTag d :: rest :=
  andThen_readByte_eq_ok (fun b _ _ _ h => by split at h <;> cases h <;> exact ⟨‹b.toNat = _›, rfl⟩)
    (fun d _ => by cases d <;> rfl)

@[simp] theorem readOrigin_eq_ok {bs rest : List Byte} {o : Origin} :
    readOrigin bs = .ok (o, rest) ↔ bs = originTag o :: rest :=
  andThen_readByte_eq_ok (fun b _ _ _ h => by split at h <;> cases h <;> exact ⟨‹b.toNat = _›, rfl⟩)
    (fun o _ => by cases o <;> rfl)

@[simp] theorem readLevel_eq_ok {bs rest : List Byte} {l : Level} :
    readLevel bs = .ok (l, rest) ↔ bs = levelByte l :: rest :=
  andThen_readByte_eq_ok (fun b _ _ _ h => by split at h <;> cases h <;> exact ⟨‹b.toNat = _›, rfl⟩)
    (fun l _ => by cases l <;> rfl)

@[simp] theorem readMode_eq_ok {bs rest : List Byte} {m : ModeOperand} :
    readMode bs = .ok (m, rest) ↔ bs = modeBytes m ++ rest := by
  constructor
  · intro h
    obtain ⟨b, bs, hb, h⟩ := andThen_cases h
    rw [readByte_eq_ok.mp hb]
    split at h
    case h_5 =>
      obtain ⟨c, _, hc, h⟩ := andThen_cases h
      cases h
      rw [readWord_eq_ok.mp hc]
      exact cons_eq_of_toNat ‹b.toNat = 4›
    all_goals cases h <;> exact cons_eq_of_toNat ‹b.toNat = _›
  · rintro rfl
    match m with
    | .named m => cases m <;> rfl
    | .code c => simp [readMode, modeBytes]

/-- A byte below 16 is its low four bits (R64). -/
theorem lt_and_setWidth_eq_iff {b : Byte} {k : BitVec 4} : b.toNat < 16 ∧ b.setWidth 4 = k ↔ b = k.setWidth 8 := by
  constructor
  · rintro ⟨hlt, rfl⟩
    apply BitVec.eq_of_toNat_eq
    simp only [BitVec.toNat_setWidth]
    omega
  · rintro rfl
    refine ⟨?_, BitVec.setWidth_setWidth_of_le k (by decide) |>.trans k.setWidth_eq⟩
    have hk := k.isLt
    rw [BitVec.toNat_setWidth]
    omega

/-- An id code presented in a byte fits its four bits, and is those bits. -/
theorem setWidth_lt_and_eq (k : BitVec 4) : (k.setWidth 8).toNat < 16 ∧ (k.setWidth 8).setWidth 4 = k :=
  lt_and_setWidth_eq_iff.mpr rfl

@[simp] theorem readIdCode_eq_ok {bs rest : List Byte} {k : BitVec 4} :
    readIdCode bs = .ok (k, rest) ↔ bs = k.setWidth 8 :: rest := by
  refine andThen_readByte_eq_ok (tag := BitVec.setWidth 8) (fun b bs k rest h => ?_) (fun k bs => ?_)
  · split at h
    · next hlt =>
      cases h
      exact ⟨congrArg BitVec.toNat (lt_and_setWidth_eq_iff.mp ⟨hlt, rfl⟩), rfl⟩
    · cases h
  · obtain ⟨hlt, hk⟩ := setWidth_lt_and_eq k
    rw [if_pos hlt, hk]

@[simp] theorem readSamples_eq_ok {bs rest : List Byte} {v : Six Word} :
    readSamples bs = .ok (v, rest) ↔ bs = sampleBytes v ++ rest := by
  simp only [readSamples, sampleBytes, andThen_eq_ok, readWord_eq_ok, List.append_assoc]
  constructor
  · rintro ⟨_, _, rfl, _, _, rfl, _, _, rfl, _, _, rfl, _, _, rfl, _, _, rfl, h⟩
    cases h
    rfl
  · rintro rfl
    exact ⟨_, _, rfl, _, _, rfl, _, _, rfl, _, _, rfl, _, _, rfl, _, _, rfl, rfl⟩

/-! ## The rules of the operations' readers (R64) -/

section operations

variable {bs rest : List Byte} {i : Instr}

theorem readRxByte_eq_ok : readRxByte bs = .ok (i, rest) ↔ ∃ b, bs = b :: rest ∧ .rxByte b = i := by
  simp [readRxByte]

theorem readTxFrame_eq_ok :
    readTxFrame bs = .ok (i, rest) ↔
      ∃ cmd n p, bs = cmd :: n :: (p ++ rest) ∧ p.length = n.toNat ∧ .txFrame cmd p = i := by
  simp [readTxFrame]

theorem readCmdDecode_eq_ok : readCmdDecode bs = .ok (i, rest) ↔ ∃ cmd, bs = cmd :: rest ∧ .cmdDecode cmd = i := by
  simp [readCmdDecode]

theorem readCmdEncode_eq_ok :
    readCmdEncode bs = .ok (i, rest) ↔
      ∃ d o k, bs = destTag d :: originTag o :: k.setWidth 8 :: rest ∧ .cmdEncode d o (idOfCode k) = i := by
  simp [readCmdEncode]

theorem readReplyCmd_eq_ok :
    readReplyCmd bs = .ok (i, rest) ↔ ∃ req k, bs = req :: k.setWidth 8 :: rest ∧ .replyCmd req k = i := by
  simp [readReplyCmd]

theorem readCfgWrite_eq_ok :
    readCfgWrite bs = .ok (i, rest) ↔
      ∃ ch op mn mx, bs = ch :: (modeBytes op ++ (wordBytes mn ++ (wordBytes mx ++ rest))) ∧
        .cfgWrite ch.toNat op mn mx = i := by
  simp [readCfgWrite]

theorem readCfgRead_eq_ok : readCfgRead bs = .ok (i, rest) ↔ ∃ ch, bs = ch :: rest ∧ .cfgRead ch.toNat = i := by
  simp [readCfgRead]

theorem readStateLoad_eq_ok :
    readStateLoad bs = .ok (i, rest) ↔ ∃ ch l, bs = ch :: levelByte l :: rest ∧ .stateLoad ch.toNat l = i := by
  simp [readStateLoad]

theorem readHystEval_eq_ok : readHystEval bs = .ok (i, rest) ↔ ∃ v, bs = sampleBytes v ++ rest ∧ .hystEval v = i := by
  simp [readHystEval]

end operations

/-! ## The operands of a selector -/

theorem channelFits_toNat (ch : Byte) : channelFits ch.toNat = true := decide_eq_true ch.isLt

theorem toNat_byteOfNat {n : Nat} (h : n < 256) : (BitVec.ofNat 8 n).toNat = n := by
  rw [BitVec.toNat_ofNat]
  exact Nat.mod_eq_of_lt h

/-- What the operand reader of a selector answers: a well-formed instruction of that selector, whose operands are the bytes read.
The sixteen selectors are the codes of the sixteen command ids, which names them for the case split. -/
theorem encode_of_readOperands {opsel : BitVec 4} {bs rest : List Byte} {i : Instr}
    (h : readOperands opsel bs = .ok (i, rest)) :
    i.wellFormed = true ∧ ∃ operands, encode i = opRequest opsel operands ∧ bs = operands ++ rest := by
  obtain ⟨k, rfl⟩ : ∃ k, opsel = idCode k := ⟨idOfCode opsel, (idCode_idOfCode opsel).symm⟩
  cases k with
  | getDatetime =>
    obtain ⟨b, rfl, rfl⟩ := readRxByte_eq_ok.mp h
    exact ⟨rfl, _, rfl, rfl⟩
  | setDatetime =>
    obtain ⟨cmd, n, p, rfl, hp, rfl⟩ := readTxFrame_eq_ok.mp h
    have hn : n = BitVec.ofNat 8 p.length := by rw [hp, BitVec.ofNat_toNat, BitVec.setWidth_eq]
    exact ⟨decide_eq_true (hp ▸ n.isLt), _, rfl, by rw [hn]; rfl⟩
  | sendSamples =>
    obtain ⟨cmd, rfl, rfl⟩ := readCmdDecode_eq_ok.mp h
    exact ⟨rfl, _, rfl, rfl⟩
  | getControlConfig =>
    obtain ⟨d, o, k, rfl, rfl⟩ := readCmdEncode_eq_ok.mp h
    exact ⟨rfl, _, rfl, by simp⟩
  | setControlConfig =>
    obtain ⟨req, k, rfl, rfl⟩ := readReplyCmd_eq_ok.mp h
    exact ⟨rfl, _, rfl, rfl⟩
  | saveConfig =>
    obtain ⟨ch, op, mn, mx, rfl, rfl⟩ := readCfgWrite_eq_ok.mp h
    exact ⟨channelFits_toNat ch, _, rfl, by simp⟩
  | powerDown =>
    obtain ⟨ch, rfl, rfl⟩ := readCfgRead_eq_ok.mp h
    exact ⟨channelFits_toNat ch, _, rfl, by simp⟩
  | requestAction =>
    obtain ⟨ch, l, rfl, rfl⟩ := readStateLoad_eq_ok.mp h
    exact ⟨channelFits_toNat ch, _, rfl, by simp⟩
  | setTimeout =>
    obtain ⟨v, rfl, rfl⟩ := readHystEval_eq_ok.mp h
    exact ⟨rfl, _, rfl, rfl⟩
  | _ =>
    cases h
    exact ⟨rfl, [], rfl, rfl⟩

/-! ## A request of each format -/

/-- An `OP` request is read as its selector's operands (R64). -/
theorem readOp_eq_ok {bs rest : List Byte} {i : Instr} :
    readOp bs = .ok (i, rest) ↔
      ∃ (opsel : BitVec 4) (operands : List Byte), bs = opsel.setWidth 8 :: operands ∧
        readOperands opsel operands = .ok (i, rest) := by
  constructor
  · intro h
    cases bs with
    | nil => cases h
    | cons b bs =>
      rw [readOp] at h
      split at h
      · next hlt => exact ⟨b.setWidth 4, bs, congrArg (· :: bs) (lt_and_setWidth_eq_iff.mp ⟨hlt, rfl⟩), h⟩
      · cases h
  · rintro ⟨opsel, operands, rfl, h⟩
    obtain ⟨hlt, hsel⟩ := setWidth_lt_and_eq opsel
    rw [readOp, if_pos hlt, hsel, h]

/-- A byte is its three fields packed (R60). -/
@[simp] theorem packByte_bits (b : Byte) : packByte (destBits b) (originBits b) (idBits b) = b := by revert b; decide

@[simp] theorem byteOf_fieldsOf (b : Byte) : byteOf (fieldsOf b) = b := by simp [byteOf, fieldsOf]

@[simp] theorem fieldsOf_byteOf (f : CommandFields) : fieldsOf (byteOf f) = f := by simp [byteOf, fieldsOf]

/-- A `CMD` request is read as the row of its fields (R56, R59). -/
theorem readCmd_eq_ok {bs rest : List Byte} {i : Instr} :
    readCmd bs = .ok (i, rest) ↔ ∃ f, bs = byteOf f :: rest ∧ commandRow f = i := by
  constructor
  · intro h
    cases bs with
    | nil => cases h
    | cons b bs => cases h; exact ⟨fieldsOf b, by rw [byteOf_fieldsOf], rfl⟩
  · rintro ⟨f, rfl, rfl⟩
    rw [readCmd, fieldsOf_byteOf]

theorem encode_commandRow (f : CommandFields) : encode (commandRow f) = cmdRequest f.dest f.origin f.id := by
  obtain ⟨d, o, k⟩ := f
  cases k <;> rfl

theorem wellFormed_commandRow (f : CommandFields) : (commandRow f).wellFormed = true := by
  obtain ⟨d, o, k⟩ := f
  cases k <;> rfl

/-- Settles O50: a selector's operand reader answers an instruction of that selector, a command byte is the byte of its fields. -/
theorem decodedBytesAreTheEncoding : Obligations.DecodedBytesAreTheEncoding := by
  intro f bs rest i h
  cases f with
  | op =>
    obtain ⟨opsel, _, rfl, hop⟩ := readOp_eq_ok.mp h
    obtain ⟨hwf, operands, henc, rfl⟩ := encode_of_readOperands hop
    rw [henc]
    exact ⟨hwf, rfl, rfl⟩
  | cmd =>
    obtain ⟨f, rfl, rfl⟩ := readCmd_eq_ok.mp h
    rw [encode_commandRow]
    exact ⟨wellFormed_commandRow f, rfl, rfl⟩

/-- An instruction with a selector decodes back when its operands do. -/
theorem decode_encode_of_op {i : Instr} {opsel : BitVec 4} {operands rest : List Byte}
    (henc : encode i = opRequest opsel operands)
    (h : readOperands opsel (operands ++ rest) = .ok (i, rest)) :
    decode (encode i).format ((encode i).bytes ++ rest) = .ok (i, rest) := by
  rw [henc]
  exact readOp_eq_ok.mpr ⟨opsel, operands ++ rest, rfl, h⟩

/-- A command byte's row decodes back. -/
theorem decode_encode_of_cmd {f : CommandFields} {i : Instr} {rest : List Byte}
    (henc : encode i = cmdRequest f.dest f.origin f.id) (hrow : commandRow f = i) :
    decode (encode i).format ((encode i).bytes ++ rest) = .ok (i, rest) := by
  rw [henc]
  exact readCmd_eq_ok.mpr ⟨f, rfl, hrow⟩

/-- Settles O49: the operands of each selector are read back by its reader's rule, a command byte by its fields. -/
theorem decodeEncode : Obligations.DecodeEncode := by
  intro i rest hwf
  cases i with
  | rxByte b => exact decode_encode_of_op rfl (readRxByte_eq_ok.mpr ⟨b, rfl, rfl⟩)
  | txFrame cmd p =>
    have hp : p.length = (BitVec.ofNat 8 p.length).toNat := (toNat_byteOfNat (of_decide_eq_true hwf)).symm
    exact decode_encode_of_op rfl (readTxFrame_eq_ok.mpr ⟨cmd, _, p, rfl, hp, rfl⟩)
  | cmdDecode cmd => exact decode_encode_of_op rfl (readCmdDecode_eq_ok.mpr ⟨cmd, rfl, rfl⟩)
  | cmdEncode d o k =>
    exact decode_encode_of_op rfl (readCmdEncode_eq_ok.mpr ⟨d, o, idCode k, rfl, by rw [idOfCode_idCode]⟩)
  | replyCmd req k => exact decode_encode_of_op rfl (readReplyCmd_eq_ok.mpr ⟨req, k, rfl, rfl⟩)
  | cfgWrite ch op mn mx =>
    exact decode_encode_of_op rfl
      (readCfgWrite_eq_ok.mpr ⟨.ofNat 8 ch, op, mn, mx, by simp only [List.cons_append, List.append_assoc],
        by rw [toNat_byteOfNat (of_decide_eq_true hwf)]⟩)
  | cfgRead ch =>
    exact decode_encode_of_op rfl (readCfgRead_eq_ok.mpr ⟨_, rfl, by rw [toNat_byteOfNat (of_decide_eq_true hwf)]⟩)
  | stateLoad ch l =>
    exact decode_encode_of_op rfl (readStateLoad_eq_ok.mpr ⟨_, l, rfl, by rw [toNat_byteOfNat (of_decide_eq_true hwf)]⟩)
  | hystEval v => exact decode_encode_of_op rfl (readHystEval_eq_ok.mpr ⟨v, rfl, rfl⟩)
  | reset | reservedOpA | reservedOpB | reservedOpC | reservedOpD | reservedOpE | reservedOpF =>
    exact decode_encode_of_op rfl rfl
  | _ d o => exact decode_encode_of_cmd (f := ⟨d, o, _⟩) rfl rfl

/-! ## Codes and words (R57 to R59, R63, R64) -/

/-- The ids above 9 are the Reserved ones (R59, R62). -/
theorem idReserved_idOfCode (k : BitVec 4) : Machine.idReserved (idOfCode k) = true ↔ 9 < k.toNat := by
  revert k
  decide

/-- Settles O20: the tables are read off, and what a code names has that code. -/
theorem commandByteCodes : Obligations.CommandByteCodes :=
  ⟨⟨rfl, rfl, rfl, rfl⟩, ⟨rfl, rfl, rfl, rfl⟩, ⟨rfl, rfl, rfl, rfl, rfl, rfl, rfl, rfl, rfl, rfl⟩,
    idReserved_idOfCode, destCode_destOfCode, originCode_originOfCode, idCode_idOfCode⟩

/-- A request of an encoding and zeros after it is that instruction's (log 2). -/
theorem decodeRequest_encode_zeros {i : Instr} (hwf : i.wellFormed = true) (n : Nat) :
    decodeRequest { format := (encode i).format, bytes := (encode i).bytes ++ List.replicate n 0#8 } = .ok i := by
  rw [decodeRequest, decodeEncode i _ hwf]
  simp

/-- A table word whose request is an encoding and zeros stands for that instruction (log 2). -/
theorem decodeTableWord_of_encode {nbits w : Nat} {i : Instr} (n : Nat) (hwf : i.wellFormed = true)
    (hword : tableRequest nbits w = { format := (encode i).format, bytes := (encode i).bytes ++ List.replicate n 0#8 }) :
    decodeTableWord nbits w = some i := by
  rw [decodeTableWord, hword, decodeRequest_encode_zeros hwf]

/-- Settles O51: each word's request is the encoding of its instruction, filled with zeros to the 13 bytes of the longest request. -/
theorem tableWordsDecode : Obligations.TableWordsDecode :=
  ⟨decodeTableWord_of_encode 12 rfl rfl, decodeTableWord_of_encode 11 rfl rfl, decodeTableWord_of_encode 11 rfl rfl,
    decodeTableWord_of_encode 11 rfl rfl, decodeTableWord_of_encode 12 rfl rfl, decodeTableWord_of_encode 12 rfl rfl,
    decodeTableWord_of_encode 12 rfl rfl, decodeTableWord_of_encode 12 rfl rfl, decodeTableWord_of_encode 12 rfl rfl⟩

end Sys2Proof
end

section
/-! PROOFS. A step that runs no operation: the caller's queue is empty, or its next request encodes none (logs 5, 19). -/

namespace Sys2Proof.Machine

/-- A step whose next request encodes no operation (log 19). -/
theorem step_of_decodeError {s : State} {r : Request} {rest : List Request} {e : DecodeError} (hc : s.caller = r :: rest)
    (he : decodeRequest r = .error e) : step s = .refused (.malformedRequest e) := by
  simp only [step, hc, he]

/-- A step with an empty queue (log 5). -/
theorem step_of_caller_nil {s : State} (hc : s.caller = []) : step s = .next s.beginStep := by
  simp only [step, hc]

/-- Settles O48: the two branches of a step that run no operation. -/
theorem stepWithoutOperation : Obligations.StepWithoutOperation :=
  ⟨fun _ hc => step_of_caller_nil hc, fun _ _ _ _ hc he => step_of_decodeError hc he⟩

end Sys2Proof.Machine
end

section
/-! PROOFS. One received byte (spec/41_frame_rx.md): what the three states before the payload do with it, what the payload state
does with it, and from that the statements about a single RX_BYTE. -/

namespace Sys2Proof.Machine

/-! ## Before the payload (R72 to R74) -/

theorem execRxByte_waitSync1 {s : State} (h : s.codec.rxState = .waitSync1) (b : Byte) :
    execRxByte b s = .next ((s.enterRx (if b = Config.sync1 then .waitSync2 else .waitSync1)).returning .none) := by
  simp only [execRxByte, h]

theorem execRxByte_waitSync2 {s : State} (h : s.codec.rxState = .waitSync2) (b : Byte) :
    execRxByte b s = .next ((s.enterRx (if b = Config.sync2 then .readLength else .waitSync1)).returning .none) := by
  simp only [execRxByte, h]

/-- Settles O1: the arm of WaitSync1, its updates written out as one record. -/
theorem rxWaitSync1Transition : Obligations.RxWaitSync1Transition :=
  fun _ b hs => execRxByte_waitSync1 hs b

/-- Settles O2: the arm of WaitSync2; the second AA is not the byte WaitSync2 waits for, and 55 is not the one of WaitSync1. -/
theorem rxWaitSync2Transition : Obligations.RxWaitSync2Transition := by
  refine ⟨fun s b hs => execRxByte_waitSync2 hs b, fun s hs => ?_⟩
  have hback := execRxByte_waitSync2 (s := (s.enterRx .waitSync2).returning .none) rfl Config.sync1
  have hstay := execRxByte_waitSync1
    (s := (((s.enterRx .waitSync2).returning .none).enterRx .waitSync1).returning .none) rfl Config.sync2
  exact ⟨_, (runOps_rxBytes_cons (execRxByte_sync1 hs)).trans
    ((runOps_rxBytes_cons hback).trans (runOps_rxBytes_cons hstay)), rfl, rfl⟩

/-- Settles O3: the arm of ReadLength, with the clamped length as the declared one. -/
theorem rxReadLengthLatches : Obligations.RxReadLengthLatches :=
  fun s b hs => ⟨clampLength s.params b, toNat_clampLength s.params b, execRxByte_readLength hs b⟩

/-! ## In the payload (R75 to R77) -/

/-- The frame that the buffer holds under the declared length (R55). -/
def State.bufferedFrame (s : State) : Frame :=
  { commandByte := s.bufByte 0
    payload := (List.range' 1 (s.codec.declaredLen.toNat - 1)).map s.bufByte
    payloadLength := s.codec.declaredLen - 1#8 }

theorem completedFrame_eq_bufferedFrame {s : State} (h : s.codec.declaredLen.toNat ≤ s.maxPacketSize) :
    completedFrame s = .ok s.bufferedFrame := completedFrame_of_le h

theorem State.bufferedFrame_payload_length (s : State) :
    s.bufferedFrame.payload.length = s.codec.declaredLen.toNat - 1 := by
  simp [State.bufferedFrame]

theorem State.bufferedFrame_payload_get (s : State) {k : Nat} (h : k < s.codec.declaredLen.toNat - 1) :
    s.bufferedFrame.payload[k]? = some (s.bufByte (k + 1)) := by
  simp [State.bufferedFrame, List.getElem?_range' h, Nat.add_comm]

theorem State.bufferedFrame_payloadLength {s : State} (h : 0 < s.codec.declaredLen.toNat) :
    s.bufferedFrame.payloadLength.toNat = s.codec.declaredLen.toNat - 1 := by
  simp only [State.bufferedFrame]
  bv_omega

/-- `t` is `s` after the payload byte `b`: the byte is stored and counted, and the count after that decides between the next
payload byte, the frame handed out and the frame dropped (R75, R76, R77). -/
structure PayloadByte (s : State) (b : Byte) (t : State) : Prop where
  bufByte : ∀ k, t.bufByte k = if k = s.codec.count.toNat then b else s.bufByte k
  count : t.codec.count.toNat = s.codec.count.toNat + 1
  declaredLen : t.codec.declaredLen = s.codec.declaredLen
  more : s.codec.count.toNat + 1 < s.codec.declaredLen.toNat →
    t.codec.rxState = .readPayload ∧ t.frames = s.frames ∧ t.result = .none
  complete : s.codec.count.toNat + 1 = s.codec.declaredLen.toNat →
    t.codec.rxState = .waitSync1 ∧ t.frames = s.frames ++ [t.bufferedFrame] ∧ t.result = .frame t.bufferedFrame
  overrun : s.codec.declaredLen.toNat < s.codec.count.toNat + 1 →
    t.codec.rxState = .waitSync1 ∧ t.frames = s.frames ∧ t.result = .none

/-- At a count inside the buffer every payload byte completes: the store is inside the buffer, and so is a frame whose declared
length the count has reached (R75, R38). -/
theorem execRxByte_payloadByte {s : State} (hr : s.codec.rxState = .readPayload)
    (hlt : s.codec.count.toNat < s.maxPacketSize) (b : Byte) :
    ∃ t, execRxByte b s = .next t ∧ PayloadByte s b t := by
  have hcount := toNat_count_add_one hlt
  have heq : s.codec.count + 1#8 = s.codec.declaredLen ↔ s.codec.count.toNat + 1 = s.codec.declaredLen.toNat := by
    rw [← hcount, BitVec.toNat_inj]
  have hgt : s.codec.declaredLen < s.codec.count + 1#8 ↔ s.codec.declaredLen.toNat < s.codec.count.toNat + 1 := by
    rw [← hcount, BitVec.lt_def]
  rw [execRxByte_readPayload hr hlt, rxAfterStore, stored_codec]
  simp only [heq, hgt]
  rcases Nat.lt_trichotomy (s.codec.count.toNat + 1) s.codec.declaredLen.toNat with hmore | hdone | hover
  · rw [if_neg hmore.ne, if_neg hmore.not_gt]
    exact ⟨_, rfl, stored_bufByte s b, hcount, rfl, fun _ => ⟨hr, rfl, rfl⟩, fun h => absurd h hmore.ne,
      fun h => absurd h hmore.not_gt⟩
  · have hfits : s.codec.declaredLen.toNat ≤ s.maxPacketSize := hdone ▸ hlt
    rw [if_pos hdone, completedFrame_eq_bufferedFrame (s := s.stored b) hfits]
    exact ⟨_, rfl, stored_bufByte s b, hcount, rfl, fun h => absurd hdone h.ne, fun _ => ⟨rfl, rfl, rfl⟩,
      fun h => absurd hdone h.ne'⟩
  · rw [if_neg hover.ne', if_pos hover]
    exact ⟨_, rfl, stored_bufByte s b, hcount, rfl, fun h => absurd h hover.not_gt, fun h => absurd h hover.ne',
      fun _ => ⟨rfl, rfl, rfl⟩⟩

theorem PayloadByte.of_execRxByte {s t : State} {b : Byte} (hr : s.codec.rxState = .readPayload)
    (hlt : s.codec.count.toNat < s.maxPacketSize) (h : execRxByte b s = .next t) : PayloadByte s b t := by
  obtain ⟨u, hu, hbyte⟩ := execRxByte_payloadByte hr hlt b
  cases h.symm.trans hu
  exact hbyte

/-- Under R86's law the count is inside the buffer while a payload is read. -/
theorem CodecInv.count_lt {s : State} (h : CodecInv s) (hr : s.codec.rxState = .readPayload) :
    s.codec.count.toNat < s.maxPacketSize := by
  obtain ⟨hfits, hlt | ⟨hzero, -⟩⟩ := h hr
  · exact hlt.trans_le hfits
  · rw [hzero]
    exact s.maxPacketSize_pos

/-- Under R86's law the count passes the declared length exactly when that is 0 (R77). -/
theorem CodecInv.overrun_iff {s : State} (h : CodecInv s) (hr : s.codec.rxState = .readPayload) :
    s.codec.declaredLen.toNat < s.codec.count.toNat + 1 ↔ s.codec.declaredLen = 0#8 := by
  rw [← BitVec.toNat_inj (y := 0#8), BitVec.toNat_ofNat]
  obtain ⟨-, hlt | ⟨-, hzero⟩⟩ := h hr
  · omega
  · simp [hzero]

/-- Settles O4: each clause is one of what a payload byte does. -/
theorem rxPayloadStoresByte : Obligations.RxPayloadStoresByte := by
  intro s b hr hlt
  obtain ⟨t, ht, hbyte⟩ := execRxByte_payloadByte hr hlt b
  refine ⟨t, ht, hbyte.bufByte, hbyte.count, hbyte.declaredLen, hbyte.more, fun hdone => ?_, hbyte.overrun,
    fun hinv hover => (hinv.overrun_iff hr).mp hover, execRxByte_sameBesideCodec ht⟩
  obtain ⟨hrx, hframes, -⟩ := hbyte.complete hdone
  exact ⟨hrx, by rw [hframes, List.length_append, List.length_singleton]⟩

/-- Settles O5: the frame handed out is the one the buffer holds after the store. -/
theorem rxCompletionHandsOutFrame : Obligations.RxCompletionHandsOutFrame := by
  intro s b hr hlt hfull
  obtain ⟨t, ht, hbyte⟩ := execRxByte_payloadByte hr hlt b
  obtain ⟨hrx, hframes, hresult⟩ := hbyte.complete hfull
  have hlength : t.bufferedFrame.payloadLength.toNat = s.codec.declaredLen.toNat - 1 := by
    rw [← hbyte.declaredLen]
    exact State.bufferedFrame_payloadLength (by rw [hbyte.declaredLen]; omega)
  refine ⟨t, t.bufferedFrame, ht, hframes, hresult, hrx, rfl, hlength, by omega, ?_, fun k hk => ?_, hbyte.bufByte,
    execRxByte_sameBesideCodec ht⟩
  · rw [State.bufferedFrame_payload_length, hbyte.declaredLen]
  · exact State.bufferedFrame_payload_get t (by rwa [hbyte.declaredLen])

/-- The latched length is 0 only for LEN 0, since MAX_PACKET_SIZE is not 0 (R6, R74). -/
theorem clampLength_eq_zero_iff {p : Params} {len : Byte} : clampLength p len = 0#8 ↔ len = 0#8 := by
  have hpos : 0 < p.maxPacketSize := Nat.succ_pos _
  rw [← BitVec.toNat_inj, toNat_clampLength, ← BitVec.toNat_inj, BitVec.toNat_ofNat]
  omega

/-- A payload byte that takes the count past the declared length drops the frame (R77). -/
theorem execRxByte_overrun {s : State} (hr : s.codec.rxState = .readPayload)
    (hlt : s.codec.count.toNat < s.maxPacketSize) (hover : s.codec.declaredLen.toNat < s.codec.count.toNat + 1) (b : Byte) :
    ∃ t, execRxByte b s = .next t ∧ t.codec.rxState = .waitSync1 ∧ t.frames = s.frames ∧ t.result = .none ∧
      SameBesideCodec s t := by
  obtain ⟨t, ht, hbyte⟩ := execRxByte_payloadByte hr hlt b
  obtain ⟨hrx, hframes, hresult⟩ := hbyte.overrun hover
  exact ⟨t, ht, hrx, hframes, hresult, execRxByte_sameBesideCodec ht⟩

/-- Settles O6: an overrun drops the frame; after LEN 0 the count is 0 and the first byte overruns. -/
theorem rxZeroLengthDropsOneByte : Obligations.RxZeroLengthDropsOneByte := by
  refine ⟨fun s b hr hlt hover => execRxByte_overrun hr hlt hover b, fun s hinv hr => hinv.overrun_iff hr,
    fun s b hs => ⟨_, execRxByte_readLength hs b, clampLength_eq_zero_iff⟩, fun s b hs => ?_⟩
  obtain ⟨u, hu, hreceiving, hframes⟩ := receiving_of_readLength hs 0x00#8
  have hcount : u.codec.count.toNat = 0 := hreceiving.count
  have hdeclared : u.codec.declaredLen.toNat = 0 := hreceiving.declared.trans (Nat.zero_min _)
  obtain ⟨t, ht, hrx, hkept, -⟩ :=
    execRxByte_overrun hreceiving.rxState (hcount ▸ u.maxPacketSize_pos) (by omega) b
  exact ⟨t, (runOps_rxBytes_cons hu).trans (runOps_rxBytes_cons ht), hrx, hkept.trans hframes⟩

/-- Under R86's law a received byte completes in each of the four states (R85). -/
theorem execRxByte_completes {s : State} (hinv : CodecInv s) (b : Byte) : ∃ t, execRxByte b s = .next t := by
  cases hr : s.codec.rxState with
  | waitSync1 => exact ⟨_, execRxByte_waitSync1 hr b⟩
  | waitSync2 => exact ⟨_, execRxByte_waitSync2 hr b⟩
  | readLength => exact ⟨_, execRxByte_readLength hr b⟩
  | readPayload =>
    obtain ⟨t, ht, -⟩ := execRxByte_payloadByte hr (hinv.count_lt hr) b
    exact ⟨t, ht⟩

/-- Settles O7: the byte completes, and the mark of a hold is beside the codec. -/
theorem rxByteAlwaysSteps : Obligations.RxByteAlwaysSteps := by
  intro s b hinv
  obtain ⟨t, ht⟩ := execRxByte_completes hinv b
  obtain ⟨-, -, -, hheld, -⟩ := execRxByte_sameBesideCodec ht
  exact ⟨t, ht, hheld⟩

/-- Settles O8: only a payload byte can hand out a frame, and only when the count reaches the declared length. -/
theorem rxHandsOutAtMostOneWholeFrame : Obligations.RxHandsOutAtMostOneWholeFrame := by
  intro s t b h
  rcases execRxByte_cases h with ⟨-, rfl⟩ | ⟨-, rfl⟩ | ⟨-, rfl⟩ | ⟨hr, hlt, -⟩
  · exact .inl rfl
  · exact .inl rfl
  · exact .inl rfl
  · have hbyte : PayloadByte s b t := .of_execRxByte hr hlt h
    rcases Nat.lt_trichotomy (s.codec.count.toNat + 1) s.codec.declaredLen.toNat with hmore | hdone | hover
    · obtain ⟨-, hframes, -⟩ := hbyte.more hmore
      exact .inl hframes
    · obtain ⟨-, hframes, -⟩ := hbyte.complete hdone
      refine .inr ⟨t.bufferedFrame, hframes, hr, hdone, ?_⟩
      rw [State.bufferedFrame_payload_length, hbyte.declaredLen]
      omega
    · obtain ⟨-, hframes, -⟩ := hbyte.overrun hover
      exact .inl hframes

/-- What two payload bytes do is the same but for the byte: the state entered, one of two, and the number of frames (R83). -/
theorem PayloadByte.rxState_and_frames {s t t' : State} {b b' : Byte} (h : PayloadByte s b t) (h' : PayloadByte s b' t') :
    t.codec.rxState = t'.codec.rxState ∧ (t.codec.rxState = .readPayload ∨ t.codec.rxState = .waitSync1) ∧
      t.frames.length = t'.frames.length := by
  rcases Nat.lt_trichotomy (s.codec.count.toNat + 1) s.codec.declaredLen.toNat with hmore | hdone | hover
  · obtain ⟨hrx, hframes, -⟩ := h.more hmore
    obtain ⟨hrx', hframes', -⟩ := h'.more hmore
    exact ⟨hrx.trans hrx'.symm, .inl hrx, by rw [hframes, hframes']⟩
  · obtain ⟨hrx, hframes, -⟩ := h.complete hdone
    obtain ⟨hrx', hframes', -⟩ := h'.complete hdone
    exact ⟨hrx.trans hrx'.symm, .inr hrx, by simp only [hframes, hframes', List.length_append, List.length_singleton]⟩
  · obtain ⟨hrx, hframes, -⟩ := h.overrun hover
    obtain ⟨hrx', hframes', -⟩ := h'.overrun hover
    exact ⟨hrx.trans hrx'.symm, .inr hrx, by rw [hframes, hframes']⟩

/-- Settles O10: the count and the declared length, not the byte, decide what a payload byte does. -/
theorem rxPayloadBytesAreData : Obligations.RxPayloadBytesAreData := by
  intro s b b' hinv hr
  have hlt := hinv.count_lt hr
  obtain ⟨t, ht, hbyte⟩ := execRxByte_payloadByte hr hlt b
  obtain ⟨t', ht', hbyte'⟩ := execRxByte_payloadByte hr hlt b'
  obtain ⟨hrx, hentered, hlength⟩ := hbyte.rxState_and_frames hbyte'
  refine ⟨t, t', ht, ht', hrx, ?_, ?_, ?_, hbyte.declaredLen.trans hbyte'.declaredLen.symm, ?_, ?_, fun k hk => ?_, hlength⟩
  · rcases hentered with h | h <;> simp [h]
  · rcases hentered with h | h <;> simp [h]
  · exact BitVec.eq_of_toNat_eq (hbyte.count.trans hbyte'.count.symm)
  · rw [hbyte.bufByte, if_pos rfl]
  · rw [hbyte'.bufByte, if_pos rfl]
  · rw [hbyte.bufByte, hbyte'.bufByte, if_neg hk, if_neg hk]

end Sys2Proof.Machine
end

section
/-! PROOFS. Runs of received bytes (spec/41_frame_rx.md): the bytes before a payload leave the buffer, an oversized frame is
clamped, and what is received depends on nothing but the codec and the operations that feed it. -/

namespace Sys2Proof.Machine

/-! ## The bytes before a payload (R84) -/

/-- How many bytes of sync and length a receive state has behind it. -/
def headerBytes : RxState → Nat
  | .waitSync1 => 0
  | .waitSync2 => 1
  | .readLength => 2
  | .readPayload => 3

/-- Before the payload a byte leaves the buffer, and takes the codec at most one byte further (R72 to R74). -/
theorem execRxByte_header {b : Byte} {s t : State} (hheader : headerBytes s.codec.rxState < 3)
    (h : execRxByte b s = .next t) :
    t.codec.buf = s.codec.buf ∧ headerBytes t.codec.rxState ≤ headerBytes s.codec.rxState + 1 := by
  rcases execRxByte_cases h with ⟨hr, rfl⟩ | ⟨hr, rfl⟩ | ⟨hr, rfl⟩ | ⟨hr, -⟩
  · refine ⟨rfl, ?_⟩
    rw [hr, State.returning_codec, State.enterRx_codec]
    split <;> simp [headerBytes]
  · refine ⟨rfl, ?_⟩
    rw [hr, State.returning_codec, State.enterRx_codec]
    split <;> simp [headerBytes]
  · refine ⟨rfl, ?_⟩
    rw [hr]
    exact Nat.le_refl 3
  · rw [hr] at hheader
    exact absurd hheader (Nat.lt_irrefl 3)

/-- A run that cannot get past the length byte leaves the buffer. -/
theorem runOps_rxBytes_header {bs : List Byte} {s t : State} (hheader : headerBytes s.codec.rxState + bs.length ≤ 3)
    (h : runOps (rxBytes bs) s = .next t) : t.codec.buf = s.codec.buf := by
  induction bs generalizing s with
  | nil => cases h; rfl
  | cons b bs ih =>
    rw [List.length_cons] at hheader
    obtain ⟨u, hu, ht⟩ := runOps_cons_cases h
    obtain ⟨hbuf, hnext⟩ := execRxByte_header (by omega) hu
    exact (ih (by omega) ht).trans hbuf

/-- Settles O11: three bytes from WaitSync1 get no further than the length byte. -/
theorem frameBytesStayThreeBytes : Obligations.FrameBytesStayThreeBytes := by
  intro s t bs hs hlen h
  have hheader : headerBytes s.codec.rxState + bs.length ≤ 3 := by
    rw [hs]
    exact (Nat.zero_add _).trans_le hlen
  obtain ⟨-, -, -, -, hepoch, -⟩ := runOps_rxBytes_sameBesideCodec h
  exact State.bufByte_congr (runOps_rxBytes_header hheader h) hepoch

/-! ## An oversized frame (R78) -/

theorem rxBytes_append (bs bs' : List Byte) : rxBytes (bs ++ bs') = rxBytes bs ++ rxBytes bs' := List.map_append

/-- Settles O13: the clamped length is MAX_PACKET_SIZE, so the frame is whole before the rest of the sender's bytes. -/
theorem oversizedFrameIsClamped : Obligations.OversizedFrameIsClamped := by
  intro s len cmd payload rest hs hover hlen
  obtain ⟨t, ht, hframes, hrx, hsame⟩ :=
    receive_frame hs (len := len) (cmd := cmd) (payload := payload) (by rw [hlen, Nat.min_eq_right hover.le])
  have hrest := runOps_append (ys := rxBytes rest) ht
  rw [← rxBytes_append] at hrest
  rw [← hlen, Nat.add_sub_cancel]
  exact ⟨t, ht, hframes, hrx, hsame, hrest⟩

/-! ## What reception depends on (R82, R94) -/

/-- Two states receive alike: they agree on all that a received byte reads (R82; the epoch decides what an unwritten entry of the
buffer reads as, log 14). -/
structure SameReceiver (s s' : State) : Prop where
  codec : s'.codec = s.codec
  epoch : s'.epoch = s.epoch
  params : s'.params = s.params

/-- An operation that feeds the codec does the same in two states that receive alike, and adds the same frames (R71, R144). -/
theorem exec_congr_of_feedsCodec {i : Instr} {s s' t : State} (hi : feedsCodec i = true) (hsame : SameReceiver s s')
    (h : exec i s = .next t) :
    ∃ t' fs, exec i s' = .next t' ∧ SameReceiver t t' ∧ t.frames = s.frames ++ fs ∧ t'.frames = s'.frames ++ fs := by
  obtain ⟨hcodec, hepoch, hparams⟩ := hsame
  cases i with
  | reset =>
    cases h
    refine ⟨_, [], rfl, ⟨?_, congrArg (· + 1) hepoch, hparams⟩, (List.append_nil _).symm, (List.append_nil _).symm⟩
    simp only [State.returning_codec, State.resetBlock_codec, State.resetCodec, hepoch]
  | rxByte b =>
    obtain ⟨t', fs, ht', hc, he, hp, hframes⟩ := execRxByte_congr hcodec hepoch hparams h
    exact ⟨t', fs, ht', ⟨hc, he, hp⟩, hframes⟩
  | _ => cases hi

/-- An operation that does not feed the codec leaves all that a received byte reads, and hands out nothing (R81, R94). -/
theorem exec_sameReceiver_of_not_feedsCodec {i : Instr} {s t : State} (hi : feedsCodec i = false)
    (h : exec i s = .next t) : SameReceiver s t ∧ t.frames = s.frames := by
  rcases exec_cases h with ⟨rfl, -⟩ | ⟨b, rfl, -⟩ | ⟨_, _, -, -, (⟨-, rfl⟩ | ⟨-, rfl⟩)⟩ |
    ⟨_, _, _, _, -, _, _, -, -, rfl⟩ | ⟨_, _, -, _, -, rfl⟩ | ⟨_, -, _, -, rfl⟩ | ⟨-, _, rfl⟩
  case inl => cases hi
  case inr.inl => cases hi
  all_goals exact ⟨⟨rfl, rfl, rfl⟩, rfl⟩

/-- A run and its operations that feed the codec, from two states that receive alike: the second completes too, they add the same
frames and end in states that receive alike. -/
theorem runOps_filter_feedsCodec {ops : List Instr} {s s' t : State} (hsame : SameReceiver s s')
    (h : runOps ops s = .next t) :
    ∃ t' fs, runOps (ops.filter feedsCodec) s' = .next t' ∧ SameReceiver t t' ∧
      t.frames = s.frames ++ fs ∧ t'.frames = s'.frames ++ fs := by
  induction ops generalizing s s' with
  | nil =>
    cases h
    exact ⟨s', [], rfl, hsame, (List.append_nil _).symm, (List.append_nil _).symm⟩
  | cons i ops ih =>
    obtain ⟨u, hu, ht⟩ := runOps_cons_cases h
    cases hi : feedsCodec i with
    | true =>
      obtain ⟨u', gs, hu', hsameU, hgs, hgs'⟩ := exec_congr_of_feedsCodec hi hsame hu
      obtain ⟨t', fs, ht', hsameT, hfs, hfs'⟩ := ih hsameU ht
      refine ⟨t', gs ++ fs, ?_, hsameT, by rw [hfs, hgs, List.append_assoc], by rw [hfs', hgs', List.append_assoc]⟩
      rw [List.filter_cons_of_pos hi, runOps_cons_next hu', ht']
    | false =>
      obtain ⟨⟨hcodec, hepoch, hparams⟩, hframes⟩ := exec_sameReceiver_of_not_feedsCodec hi hu
      have hsameU : SameReceiver u s' :=
        ⟨hsame.codec.trans hcodec.symm, hsame.epoch.trans hepoch.symm, hsame.params.trans hparams.symm⟩
      rw [List.filter_cons_of_neg (by simp [hi]), ← hframes]
      exact ih hsameU ht

/-- Settles O45: a state receives as itself. -/
theorem otherOperationsDoNotDisturbReceive : Obligations.OtherOperationsDoNotDisturbReceive := by
  intro ops s t h
  obtain ⟨t', fs, ht', hsame, hframes, hframes'⟩ := runOps_filter_feedsCodec ⟨rfl, rfl, rfl⟩ h
  exact ⟨t', ht', hframes'.trans hframes.symm, hsame.codec⟩

/-- Bytes fed in chunks are fed one after another (R82). -/
theorem runOps_flatten_of_runChunks {chunks : List (List Byte)} {s t : State} (h : runChunks chunks s = .next t) :
    runOps (rxBytes chunks.flatten) s = .next t := by
  induction chunks generalizing s with
  | nil => exact h
  | cons c chunks ih =>
    rw [runChunks] at h
    split at h
    · next u hu =>
      rw [List.flatten_cons, rxBytes_append, runOps_append hu]
      exact ih h
    · cases h
    · cases h

theorem filter_feedsCodec_rxBytes (bs : List Byte) : (rxBytes bs).filter feedsCodec = rxBytes bs := by
  refine List.filter_eq_self.mpr fun i hi => ?_
  obtain ⟨b, -, rfl⟩ := List.mem_map.mp hi
  rfl

/-- Settles O9: the joined bytes do in the first state what the chunks did, and every one of them feeds the codec. -/
theorem rxChunkInvariance : Obligations.RxChunkInvariance := by
  intro chunks s s' t hcodec hepoch hparams h
  obtain ⟨t', fs, ht', hsame, hframes⟩ :=
    runOps_filter_feedsCodec ⟨hcodec, hepoch, hparams⟩ (runOps_flatten_of_runChunks h)
  rw [filter_feedsCodec_rxBytes] at ht'
  obtain ⟨hadded, hadded'⟩ := hframes
  exact ⟨t', fs, ht', hadded, hadded', hsame.codec⟩

end Sys2Proof.Machine
end

section
/-! PROOFS. Transmission (spec/42_frame_tx.md): TX_FRAME alone, the packet of one block received by another, and the steps of a
caller that waits for the radio. -/

namespace Sys2Proof.Machine

/-! ## TX_FRAME alone (R87 to R91) -/

/-- Settles O14: with the radio free, the packet goes out in this step. -/
theorem txEmitsOnePacket : Obligations.TxEmitsOnePacket := fun _ _ _ hfree hp => execTxFrame_idle hp hfree

/-- Settles O15: with the radio busy, only the mark of the hold is set. -/
theorem txHoldsWhileBusy : Obligations.TxHoldsWhileBusy := fun _ _ _ hbusy hp => execTxFrame_busy hp hbusy

/-- Settles O16: the length is tested before `tx_busy` is read. -/
theorem txRefusesLongPayload : Obligations.TxRefusesLongPayload := fun _ _ _ hp => execTxFrame_tooLong hp

/-! ## What one block sends, another receives (R90, R95) -/

/-- The mask CF keeps the destination, and 20 does not touch it (R90). -/
@[simp] theorem destBits_forceOrigin (cmd : Byte) : destBits (forceOrigin cmd) = destBits cmd := by
  have hmask : BitVec.extractLsb' 6 2 0xCF#8 = BitVec.allOnes 2 := rfl
  have hset : BitVec.extractLsb' 6 2 0x20#8 = 0#2 := rfl
  rw [destBits, forceOrigin, BitVec.extractLsb'_or, BitVec.extractLsb'_and, hmask, hset, BitVec.and_allOnes,
    BitVec.or_zero, destBits]

/-- The mask CF keeps the id, and 20 does not touch it (R90). -/
@[simp] theorem idBits_forceOrigin (cmd : Byte) : idBits (forceOrigin cmd) = idBits cmd := by
  have hmask : BitVec.extractLsb' 0 4 0xCF#8 = BitVec.allOnes 4 := rfl
  have hset : BitVec.extractLsb' 0 4 0x20#8 = 0#4 := rfl
  rw [idBits, forceOrigin, BitVec.extractLsb'_or, BitVec.extractLsb'_and, hmask, hset, BitVec.and_allOnes,
    BitVec.or_zero, idBits]

/-- Settles O19: the packet's bytes are the wire frame of the forced command byte, which reassembles to it and the payload. -/
theorem transmittedFrameIsReceived : Obligations.TransmittedFrameIsReceived := by
  intro s peer cmd p hfree hp hsync hfits
  obtain ⟨got, hrun, hframes, -⟩ := wireFrameIsReassembled peer (forceOrigin cmd) p hsync hfits
  exact ⟨_, wireFrame (forceOrigin cmd) p, got, forceOrigin cmd, execTxFrame_idle hp hfree, rfl, hrun, hframes,
    originBits_forceOrigin cmd, destBits_forceOrigin cmd, idBits_forceOrigin cmd⟩

/-! ## A caller that waits for the radio (R88, R96) -/

theorem runSteps_succ_next {s t : State} (h : step s = .next t) (k : Nat) : runSteps (k + 1) s = runSteps k t := by
  simp only [runSteps, h]

/-- The state held by a busy radio, with the levels the radio has still to put on `tx_busy` (R88; logs 6, 7). -/
def State.waiting (s : State) (levels : List Bool) : State :=
  { s with txBusy := true, txBusyNext := levels, held := true }

/-- The state after the bytes went out to a free radio, with the levels and the requests still to come (R89, R93; log 6). -/
def State.sent (s : State) (bytes : List Byte) (levels : List Bool) (requests : List Request) : State :=
  { s.transmit bytes with
    result := .none, txBusy := false, txBusyNext := levels, held := false, caller := requests }

/-- A busy radio with only busy levels to come is busy at the next step. -/
theorem headD_txBusyNext_of_busy {s : State} (hbusy : s.txBusy = true) (hlevels : ∀ b ∈ s.txBusyNext, b = true) :
    s.txBusyNext.headD s.txBusy = true := by
  cases hl : s.txBusyNext with
  | nil => exact hbusy
  | cons b levels => exact hlevels b (hl ▸ List.mem_cons_self)

section waiting

variable {s : State} {r : Request} {rest : List Request} {cmd : Byte} {p : List Byte}

/-- A step at which the radio is busy holds a presented TX_FRAME, which stays the next operation (R88). -/
theorem step_txFrame_busy (hc : s.caller = r :: rest) (hi : decodeRequest r = .ok (.txFrame cmd p)) (hp : p.length ≤ 254)
    (hbusy : s.txBusyNext.headD s.txBusy = true) : step s = .next (s.waiting s.txBusyNext.tail) := by
  rw [step_of_decodeRequest hc hi, s.beginStep_eq, hbusy, exec, execTxFrame_busy hp rfl]
  rfl

/-- A step at which the radio is free sends the packet of a presented TX_FRAME, and the caller goes on (R88, R89). -/
theorem step_txFrame_free (hc : s.caller = r :: rest) (hi : decodeRequest r = .ok (.txFrame cmd p)) (hp : p.length ≤ 254)
    (hfree : s.txBusyNext.headD s.txBusy = false) :
    step s = .next (s.sent (wireFrame (forceOrigin cmd) p) s.txBusyNext.tail rest) := by
  have htail : s.caller.tail = rest := by rw [hc, List.tail_cons]
  rw [step_of_decodeRequest hc hi, s.beginStep_eq, hfree, exec, execTxFrame_idle hp rfl, ← htail]
  rfl

/-- While every level to come is busy, each step is a hold (R96). -/
theorem runSteps_txFrame_busy {k : Nat} (hc : s.caller = r :: rest) (hi : decodeRequest r = .ok (.txFrame cmd p))
    (hp : p.length ≤ 254) (hbusy : s.txBusy = true) (hlevels : ∀ b ∈ s.txBusyNext, b = true) :
    runSteps (k + 1) s = .next (s.waiting (s.txBusyNext.drop (k + 1))) := by
  induction k generalizing s with
  | zero =>
    rw [runSteps_succ_next (step_txFrame_busy hc hi hp (headD_txBusyNext_of_busy hbusy hlevels)), List.drop_one]
    rfl
  | succ k ih =>
    rw [runSteps_succ_next (step_txFrame_busy hc hi hp (headD_txBusyNext_of_busy hbusy hlevels)), ← List.drop_tail]
    exact ih (s := s.waiting s.txBusyNext.tail) hc rfl fun b hb => hlevels b (List.mem_of_mem_tail hb)

/-- After `k` levels that are busy and one that is free the packet has gone out: `k` holds, then the operation (R88). -/
theorem runSteps_txFrame_frees {k : Nat} {more : List Bool} (hc : s.caller = r :: rest)
    (hi : decodeRequest r = .ok (.txFrame cmd p)) (hp : p.length ≤ 254)
    (hlevels : s.txBusyNext = List.replicate k true ++ false :: more) :
    runSteps (k + 1) s = .next (s.sent (wireFrame (forceOrigin cmd) p) more rest) := by
  induction k generalizing s with
  | zero =>
    have hfree : step s = .next (s.sent (wireFrame (forceOrigin cmd) p) s.txBusyNext.tail rest) :=
      step_txFrame_free hc hi hp (by rw [hlevels]; rfl)
    rw [runSteps_succ_next hfree, hlevels]
    rfl
  | succ k ih =>
    have hbusy : step s = .next (s.waiting s.txBusyNext.tail) := step_txFrame_busy hc hi hp (by rw [hlevels]; rfl)
    rw [runSteps_succ_next hbusy]
    exact ih hc (by rw [State.waiting, hlevels]; rfl)

end waiting

/-- Settles O17: `k` holds leave the block as it is, and the step after them sends the packet. -/
theorem txProceedsWhenRadioFrees : Obligations.TxProceedsWhenRadioFrees := by
  intro s r rest cmd p k more hc hi hp hlevels
  exact ⟨_, runSteps_txFrame_frees hc hi hp hlevels, rfl, rfl, rfl, rfl, rfl, rfl, rfl⟩

/-- Settles O18: before the first step nothing has happened, and every step after it is a hold. -/
theorem txHangsWhileRadioBusy : Obligations.TxHangsWhileRadioBusy := by
  intro s r rest cmd p k hc hi hp hbusy hlevels
  cases k with
  | zero => exact ⟨s, rfl, rfl, rfl, fun h => absurd h (Nat.lt_irrefl 0), rfl, rfl, rfl, rfl⟩
  | succ k => exact ⟨_, runSteps_txFrame_busy hc hi hp hbusy hlevels, rfl, rfl, fun _ => rfl, rfl, rfl, rfl, rfl⟩

end Sys2Proof.Machine
end

section
/-! PROOFS. The command byte (spec/43_command_byte.md): what CMD_DECODE, CMD_ENCODE and REPLY_CMD answer, that the first two undo
each other, and the sixteen rows of the command ids. -/

namespace Sys2Proof.Machine

/-! ## Packing three fields (R60, R61) -/

/-- The three fields stand side by side, so the packed value is their weighted sum (R60). -/
theorem toNat_packByte (d o : BitVec 2) (k : BitVec 4) :
    (packByte d o k).toNat = d.toNat * 64 + o.toNat * 16 + k.toNat := by
  revert d o k; decide

/-- Forcing the origin packs the byte again with MODULE between its own destination and id (R61). -/
theorem forceOrigin_eq_packByte (cmd : Byte) :
    forceOrigin cmd = packByte (destBits cmd) (originCode .module) (idBits cmd) := by
  rw [← packByte_bits (forceOrigin cmd), destBits_forceOrigin, originBits_forceOrigin, idBits_forceOrigin, originCode]

/-- A byte of origin MODULE is left as it is by the forcing (R99). -/
theorem forceOrigin_packByte_module (d : BitVec 2) (k : BitVec 4) :
    forceOrigin (packByte d (originCode .module) k) = packByte d (originCode .module) k := by
  rw [forceOrigin_eq_packByte, destBits_packByte, idBits_packByte]

/-! ## CMD_ENCODE and CMD_DECODE (R97, R98, R100) -/

theorem fieldsReserved_eq_false {f : CommandFields} (hd : f.dest ≠ .reserved) (ho : f.origin ≠ .reserved)
    (hk : idReserved f.id = false) : fieldsReserved f = false := by
  simp [fieldsReserved, hd, ho, hk]

/-- CMD_ENCODE of a triple without a Reserved field returns its byte (R98). -/
theorem exec_cmdEncode_named {f : CommandFields} (h : fieldsReserved f = false) (s : State) :
    exec (.cmdEncode f.dest f.origin f.id) s = .next (s.returning (.command (byteOf f))) :=
  execCmdEncode_named h

/-- CMD_ENCODE refuses a triple with a Reserved field (R98). -/
theorem exec_cmdEncode_reserved {f : CommandFields} (h : fieldsReserved f = true) (s : State) :
    exec (.cmdEncode f.dest f.origin f.id) s = .refused .reservedField :=
  execCmdEncode_reserved h

/-- CMD_DECODE returns the fields of any byte (R97). -/
theorem exec_cmdDecode (cmd : Byte) (s : State) :
    exec (.cmdDecode cmd) s = .next (s.returning (.fields (fieldsOf cmd))) := rfl

/-- Settles O22: the byte of a named triple is its packed value, and the refusal asks for one Reserved field. -/
theorem cmdEncodePacksNamedFields : Obligations.CmdEncodePacksNamedFields := by
  intro s d o k
  constructor
  · intro hd ho hk
    have hnamed : fieldsReserved ⟨d, o, k⟩ = false := fieldsReserved_eq_false hd ho hk
    exact ⟨_, exec_cmdEncode_named hnamed s, toNat_packByte _ _ _⟩
  · intro h
    exact exec_cmdEncode_reserved (fieldsReserved_iff (f := ⟨d, o, k⟩).mpr h) s

/-- Settles O21: what a named code reads as is a case of its table, and the id read has the code of the bits. -/
theorem cmdDecodeReturnsFields : Obligations.CmdDecodeReturnsFields := by
  intro s cmd
  have dest : ∀ {c}, destBits cmd = c → destOfCode (destBits cmd) = destOfCode c := congrArg destOfCode
  have origin : ∀ {c}, originBits cmd = c → originOfCode (originBits cmd) = originOfCode c := congrArg originOfCode
  exact ⟨_, _, _, exec_cmdDecode cmd s, dest, dest, dest, dest, origin, origin, origin, origin,
    idCode_idOfCode _, idReserved_idOfCode _⟩

/-- Of the 256 bytes, 3 * 3 * 10 have three named fields (R100). -/
theorem length_filter_named :
    ((List.range 256).filter (fun n => !fieldsReserved (fieldsOf (BitVec.ofNat 8 n)))).length = 90 := by
  decide

/-- Settles O24: a byte is the byte of its fields and a triple the fields of its byte, so CMD_ENCODE's one test decides. -/
theorem commandByteRoundTrip : Obligations.CommandByteRoundTrip := by
  refine ⟨?_, ?_, ?_, length_filter_named⟩
  · intro s c hnamed
    have hencode := exec_cmdEncode_named hnamed s
    rw [byteOf_fieldsOf] at hencode
    exact ⟨_, _, _, exec_cmdDecode c s, hencode⟩
  · intro s d o k hd ho hk
    have hnamed : fieldsReserved ⟨d, o, k⟩ = false := fieldsReserved_eq_false hd ho hk
    have hdecode := exec_cmdDecode (byteOf ⟨d, o, k⟩) s
    rw [fieldsOf_byteOf] at hdecode
    exact ⟨_, exec_cmdEncode_named hnamed s, hdecode⟩
  · intro s c hreserved
    exact ⟨_, _, _, exec_cmdDecode c s, exec_cmdEncode_reserved hreserved s⟩

/-! ## REPLY_CMD (R99) -/

/-- What REPLY_CMD can do when it answers a next state: the reply has origin MODULE and the given id (R99). -/
theorem execReplyCmd_cases {req : Byte} {k : BitVec 4} {s t : State} (h : execReplyCmd req k s = .next t) :
    ∃ d, replyDest req = some d ∧ t = s.returning (.command (packByte d (originCode .module) k)) := by
  cases hd : replyDest req with
  | some d => rw [execReplyCmd_some hd] at h; cases h; exact ⟨d, rfl, rfl⟩
  | none => rw [execReplyCmd_none hd] at h; cases h

/-- A SOFTWARE request is answered to ENDPOINT (R99). -/
theorem replyDest_software {req : Byte} (h : originBits req = 0b01#2) : replyDest req = some (destCode .endpoint) := by
  rw [replyDest, h]
  rfl

/-- A ROUTER request is answered to ROUTER (R99). -/
theorem replyDest_router {req : Byte} (h : originBits req = 0b00#2) : replyDest req = some (destCode .router) := by
  rw [replyDest, h]
  rfl

/-- A request of origin MODULE or of the Reserved origin has no reply (R99). -/
theorem replyDest_none {req : Byte} (h : originBits req = 0b10#2 ∨ originBits req = 0b11#2) : replyDest req = none := by
  rcases h with h | h
  all_goals
    rw [replyDest, h]
    rfl

/-- Settles O23: the origin of the request picks the destination, and every reply is packed with origin MODULE. -/
theorem replyCmdRetagsRequest : Obligations.ReplyCmdRetagsRequest := by
  intro s req id
  refine ⟨fun h => execReplyCmd_some (replyDest_software h), fun h => execReplyCmd_some (replyDest_router h),
    fun h => execReplyCmd_none (replyDest_none h), fun c h => ?_⟩
  obtain ⟨d, -, ht⟩ := execReplyCmd_cases h
  have hc : c = packByte d (originCode .module) id := by
    injection congrArg State.result ht
  rw [hc]
  exact forceOrigin_packByte_module d id

/-! ## The rows of the command ids (R101 to R111) -/

/-- The row of a triple reports that triple (log 3). -/
theorem exec_commandRow (f : CommandFields) (s : State) : exec (commandRow f) s = .next (s.returning (.fields f)) := by
  obtain ⟨d, o, k⟩ := f
  cases k <;> rfl

/-- Settles O25: each constructor is the row of its id. -/
theorem commandRowsReportTheirFields : Obligations.CommandRowsReportTheirFields := by
  intro s d o
  have row (k : CommandId) := exec_commandRow ⟨d, o, k⟩ s
  exact ⟨row .message, row .getDatetime, row .setDatetime, row .sendSamples, row .getControlConfig, row .setControlConfig,
    row .saveConfig, row .powerDown, row .requestAction, row .setTimeout, row .reservedA, row .reservedB, row .reservedC,
    row .reservedD, row .reservedE, row .reservedF⟩

end Sys2Proof.Machine
end

section
/-! PROOFS. The channel registers and the comparator (spec/44_hysteresis.md): what CFG_WRITE, CFG_READ, STATE_LOAD and HYST_EVAL
answer, what a completed pass does to one channel, and what a channel keeps over any number of operations. -/

namespace Sys2Proof.Machine

/-! ## CFG_WRITE, CFG_READ and STATE_LOAD (R112 to R114) -/

section channelOperations

variable {s : State} {ch : Nat}

/-- A mode's name denotes it, and so does its code where the codes are distinct (R112, D13). -/
theorem modeOf_eq_some {c : OpmodeCodes} {op : ModeOperand} {m : OperationMode}
    (h : op = .named m ∨ (CodesDistinct c ∧ op = .code (modeCode c m))) : modeOf c op = some m := by
  rcases h with rfl | ⟨hdistinct, rfl⟩
  · rfl
  · exact modeOfCode_modeCode hdistinct m

theorem exec_cfgWrite {op : ModeOperand} {m : OperationMode} (hop : modeOf s.params.opmodeCode op = some m) (i : Fin 6)
    (mn mx : Word) :
    exec (.cfgWrite i.val op mn mx) s = .next ((s.writeConfig i { op := m, min := mn, max := mx }).returning .none) := by
  simp only [exec, execCfgWrite, channelOf_val, hop]

theorem exec_cfgWrite_invalidMode {op : ModeOperand} (hop : modeOf s.params.opmodeCode op = none) (i : Fin 6)
    (mn mx : Word) : exec (.cfgWrite i.val op mn mx) s = .refused .invalidMode := by
  simp only [exec, execCfgWrite, channelOf_val, hop]

theorem exec_cfgWrite_channelIndex (h : ¬ ch < 6) (op : ModeOperand) (mn mx : Word) :
    exec (.cfgWrite ch op mn mx) s = .refused .channelIndex := by
  simp only [exec, execCfgWrite, channelOf_ge h]

theorem exec_cfgRead (i : Fin 6) : exec (.cfgRead i.val) s = .next (s.returning (.config (s.channelConfig i))) := by
  simp only [exec, execCfgRead, channelOf_val]

theorem exec_cfgRead_channelIndex (h : ¬ ch < 6) : exec (.cfgRead ch) s = .refused .channelIndex := by
  simp only [exec, execCfgRead, channelOf_ge h]

theorem exec_stateLoad (i : Fin 6) (l : Level) :
    exec (.stateLoad i.val l) s = .next ((s.loadLevel i l).returning .none) := by
  simp only [exec, execStateLoad, channelOf_val]

theorem exec_stateLoad_channelIndex (h : ¬ ch < 6) (l : Level) : exec (.stateLoad ch l) s = .refused .channelIndex := by
  simp only [exec, execStateLoad, channelOf_ge h]

end channelOperations

/-- An operation that writes only the comparator, the valves and its result leaves all the rest (R112 to R115). -/
theorem sameBesideComparator_of_writes (s : State) (c : Comparator) (valve : Six Level) (r : Result) :
    SameBesideComparator s { s with comparator := c, valve := valve, result := r } :=
  ⟨rfl, fun _ => rfl, rfl, rfl, rfl, rfl, rfl, rfl, rfl, rfl⟩

@[simp] theorem State.channelConfig_writeConfig_same (s : State) (i : Fin 6) (c : ChannelConfig) :
    (s.writeConfig i c).channelConfig i = c := by
  simp [State.channelConfig]

@[simp] theorem State.channelConfig_resetBlock (s : State) (i : Fin 6) :
    s.resetBlock.channelConfig i = s.params.initConfig.get i := by
  simp [State.channelConfig]

/-- Settles O27: the operand denotes the mode, and each of the three registers is read back after its write. -/
theorem cfgWriteOverwritesOneChannel : Obligations.CfgWriteOverwritesOneChannel := by
  intro s ch op m mn mx hch hop
  lift ch to Fin 6 using hch
  refine ⟨_, exec_cfgWrite (modeOf_eq_some hop) ch mn mx, fun j => ?_, fun j => ?_, fun j => ?_, rfl, rfl, rfl, rfl,
    sameBesideComparator_of_writes s _ _ _⟩
  all_goals simp [Six.get_set, Fin.val_inj]

/-- Settles O28: the channel is looked up before the operand's mode. -/
theorem cfgWriteRefusals : Obligations.CfgWriteRefusals := by
  intro s ch op mn mx
  constructor
  · intro hch
    exact exec_cfgWrite_channelIndex (by omega) op mn mx
  · rintro c hch rfl hnone
    lift ch to Fin 6 using (by omega)
    have hop : modeOf s.params.opmodeCode (.code c) = none := modeOfCode_eq_none hnone
    exact exec_cfgWrite_invalidMode hop ch mn mx

/-- Settles O29: the record read is the channel's, and a RESET makes it INIT_CONFIG's. -/
theorem cfgReadReturnsChannel : Obligations.CfgReadReturnsChannel := by
  intro s
  refine ⟨fun i => exec_cfgRead i, fun i => ⟨s.resetBlock.returning .none, rfl, ?_⟩,
    fun ch hch => exec_cfgRead_channelIndex (by omega)⟩
  rw [exec_cfgRead, ← s.channelConfig_resetBlock i]
  rfl

/-- Settles O30: `last` and the valve level are read back after their write, and nothing else is written. -/
theorem stateLoadSetsOneChannel : Obligations.StateLoadSetsOneChannel := by
  refine ⟨fun s ch l hch => ?_, fun s ch l hch => exec_stateLoad_channelIndex (by omega) l⟩
  lift ch to Fin 6 using hch
  refine ⟨_, exec_stateLoad ch l, fun j => ?_, fun j => ?_, rfl, rfl, rfl, rfl, rfl,
    sameBesideComparator_of_writes s _ _ _⟩
  all_goals simp [Six.get_set, Fin.val_inj]

/-- Operations among which is no CFG_WRITE to a channel and no RESET leave its configuration (R128, R144). -/
theorem runOps_keeps_channelConfig {i : Fin 6} {ops : List Instr} {s t : State}
    (hops : ∀ o ∈ ops, o ≠ .reset ∧ ∀ op mn mx, o ≠ .cfgWrite i.val op mn mx) (h : runOps ops s = .next t) :
    t.channelConfig i = s.channelConfig i := by
  induction ops generalizing s with
  | nil => cases h; rfl
  | cons o ops ih =>
    obtain ⟨u, hu, ht⟩ := runOps_cons_cases h
    obtain ⟨⟨hreset, hwrite⟩, hrest⟩ := List.forall_mem_cons.mp hops
    rw [ih hrest ht]
    rcases exec_config_cases hu i with ho | ⟨op, mn, mx, ho⟩ | heq
    · exact absurd ho hreset
    · exact absurd ho (hwrite op mn mx)
    · exact heq

/-- Settles O36: the write sets the channel's record, what is in between leaves it, and the read returns it. -/
theorem configRoundTrip : Obligations.ConfigRoundTrip := by
  intro s t ch op m mn mx between hch hop hbetween h
  lift ch to Fin 6 using hch
  rw [runOps_cons_next (exec_cfgWrite (modeOf_eq_some hop) ch mn mx)] at h
  have hconfig : t.channelConfig ch = { op := m, min := mn, max := mx } :=
    (runOps_keeps_channelConfig hbetween h).trans (s.channelConfig_writeConfig_same ch _)
  rw [exec_cfgRead, hconfig]
  rfl

/-! ## The new level of one channel (R116 to R119) -/

section channelLevel

variable {s : State} {v : Six Word} {i : Fin 6}

theorem channelLevel_forceValveOn (hop : s.comparator.operation.get i = .forceValveOn) :
    s.channelLevel v i = some .on := by
  simp only [State.channelLevel, hop, newLevel]

theorem channelLevel_forceValveOff (hop : s.comparator.operation.get i = .forceValveOff) :
    s.channelLevel v i = some .off := by
  simp only [State.channelLevel, hop, newLevel]

theorem channelLevel_disabled (hop : s.comparator.operation.get i = .disabled) : s.channelLevel v i = some .off := by
  simp only [State.channelLevel, hop, newLevel]

/-- An ON sensor channel goes OFF above `max` only, compared as unsigned numbers (R116). -/
theorem channelLevel_sensor_on (hop : s.comparator.operation.get i = .sensorControlsValve)
    (hlast : s.comparator.lastState.get i = .known .on) :
    s.channelLevel v i =
      some (if (s.comparator.maxThreshold.get i).toNat < (v.get i).toNat then .off else .on) := by
  simp only [State.channelLevel, hop, hlast, newLevel, sensorLevel, BitVec.lt_def, apply_ite some]

/-- An OFF sensor channel goes ON below `min` only, compared as unsigned numbers (R116). -/
theorem channelLevel_sensor_off (hop : s.comparator.operation.get i = .sensorControlsValve)
    (hlast : s.comparator.lastState.get i = .known .off) :
    s.channelLevel v i =
      some (if (v.get i).toNat < (s.comparator.minThreshold.get i).toNat then .on else .off) := by
  simp only [State.channelLevel, hop, hlast, newLevel, sensorLevel, BitVec.lt_def, apply_ite some]

/-- A pass has no levels exactly when a SensorControlsValve channel is Unset (R115, R125). -/
theorem passLevels_eq_none : s.passLevels v = none ↔ ¬ SensorsKnown s := by
  simp [State.passLevels, Six.all?_eq_none, channelLevel_eq_none, SensorsKnown]

end channelLevel

/-! ## A pass (R115) -/

theorem exec_hystEval {s : State} {v : Six Word} {new : Six Level} (h : s.passLevels v = some new) :
    exec (.hystEval v) s = .next ((s.endPass new (anyOnOf new)).returning (.pass new (anyOnOf new))) := by
  simp only [exec, execHystEval, h]

theorem exec_hystEval_unset {s : State} {v : Six Word} (h : s.passLevels v = none) :
    exec (.hystEval v) s = .refused .unsetLastState := by
  simp only [exec, execHystEval, h]

/-- Settles O31: the pass has its levels exactly when no sensor channel is Unset, and each level is the one of its mode's arm. -/
theorem hystEvalAppliesPolicy : Obligations.HystEvalAppliesPolicy := by
  intro s v
  constructor
  · intro hknown
    obtain ⟨new, hnew⟩ := Option.ne_none_iff_exists'.mp (mt passLevels_eq_none.mp (not_not_intro hknown))
    have level (i : Fin 6) {l : Level} (hl : s.channelLevel v i = some l) : new.get i = l :=
      Option.some.inj ((passLevels_eq_some.mp hnew i).symm.trans hl)
    refine ⟨_, new, exec_hystEval hnew, fun i => ⟨?_, ?_, ?_, ?_, ?_⟩, fun i => Six.get_tabulate _ i, rfl, anyOnOf_iff, rfl,
      rfl, rfl, rfl, sameBesideComparator_of_writes s _ _ _⟩
    · exact fun hop => level i (channelLevel_forceValveOn hop)
    · exact fun hop => level i (channelLevel_forceValveOff hop)
    · exact fun hop => level i (channelLevel_disabled hop)
    · exact fun hop hlast => level i (channelLevel_sensor_on hop hlast)
    · exact fun hop hlast => level i (channelLevel_sensor_off hop hlast)
  · intro hunset
    exact exec_hystEval_unset (passLevels_eq_none.mpr hunset)

section completedPass

variable {s t : State} {v : Six Word} {i : Fin 6} (h : exec (.hystEval v) s = .next t)

include h

/-- What a completed pass does to a channel: its new level becomes `last` and the valve level (R115). -/
theorem hystEval_channel :
    ∃ l, s.channelLevel v i = some l ∧ t.comparator.lastState.get i = .known l ∧ t.valve.get i = l := by
  obtain ⟨new, hnew, rfl⟩ := execHystEval_cases h
  exact ⟨new.get i, hnew i, Six.get_tabulate _ i, rfl⟩

theorem hystEval_lastState {l : Level} (hl : s.channelLevel v i = some l) :
    t.comparator.lastState.get i = .known l := by
  obtain ⟨l', hl', hlast, -⟩ := hystEval_channel (i := i) h
  rw [hlast, Option.some.inj (hl'.symm.trans hl)]

theorem hystEval_channelConfig : t.channelConfig i = s.channelConfig i := by
  obtain ⟨new, -, rfl⟩ := execHystEval_cases h
  rfl

end completedPass

/-- Settles O32: a channel's new level is a function of its own registers and sample. -/
theorem channelsAreIndependent : Obligations.ChannelsAreIndependent := by
  intro s s' t t' v v' i hop hmin hmax hlast hv h h'
  have hlevel : s.channelLevel v i = s'.channelLevel v' i := by
    simp only [State.channelLevel, hop, hmin, hmax, hlast, hv]
  obtain ⟨l, hl, hlast, hvalve⟩ := hystEval_channel (i := i) h
  obtain ⟨l', hl', hlast', hvalve'⟩ := hystEval_channel (i := i) h'
  obtain rfl : l = l' := Option.some.inj (hl.symm.trans (hlevel.trans hl'))
  exact ⟨hlast.trans hlast'.symm, hvalve.trans hvalve'.symm⟩

/-! ## A sensor channel over passes (R122 to R124) -/

/-- Settles O33: from ON only `max` is looked at and from OFF only `min`, so above `max` and below `min` each leads to the other. -/
theorem invertedThresholdsToggle : Obligations.InvertedThresholdsToggle := by
  intro s t v i l h hop hlast hinverted
  cases l with
  | on =>
    rw [hystEval_lastState h (channelLevel_sensor_on hop hlast)]
    refine ⟨fun habove _ => ?_, fun hlow => ?_, fun hhigh => ?_⟩
    · rw [if_pos habove, if_pos rfl]
    · rw [if_neg (by omega)]
    · rw [if_pos (by omega)]
  | off =>
    rw [hystEval_lastState h (channelLevel_sensor_off hop hlast)]
    refine ⟨fun _ hbelow => ?_, fun hlow => ?_, fun hhigh => ?_⟩
    · rw [if_pos hbelow, if_neg (by decide)]
    · rw [if_pos (by omega)]
    · rw [if_neg (by omega)]

/-- Settles O34: both comparisons are with `m`, from ON for a value above it and from OFF for one below it. -/
theorem equalThresholdsHoldAtValue : Obligations.EqualThresholdsHoldAtValue := by
  intro s t v i l m h hop hlast hmin hmax
  cases l with
  | on =>
    rw [hystEval_lastState h (channelLevel_sensor_on hop hlast), hmax]
    refine ⟨fun habove => ?_, fun hbelow => ?_, fun hat => ?_⟩
    · rw [if_pos habove]
    · rw [if_neg (by omega)]
    · rw [hat, if_neg (Nat.lt_irrefl _)]
  | off =>
    rw [hystEval_lastState h (channelLevel_sensor_off hop hlast), hmin]
    refine ⟨fun habove => ?_, fun hbelow => ?_, fun hat => ?_⟩
    · rw [if_neg (by omega)]
    · rw [if_pos hbelow]
    · rw [hat, if_neg (Nat.lt_irrefl _)]

/-- The values for which a sensor channel of this configuration keeps its level: up to `max` when ON, from `min` when OFF
(R124). -/
def KeepsLevel (c : ChannelConfig) (value : Word) : Level → Prop
  | .on => value.toNat ≤ c.max.toNat
  | .off => c.min.toNat ≤ value.toNat

/-- A sensor channel whose value keeps its level has it after the pass (R124). -/
theorem hystEval_keeps_level {s t : State} {v : Six Word} {i : Fin 6} {l : Level} (h : exec (.hystEval v) s = .next t)
    (hop : (s.channelConfig i).op = .sensorControlsValve) (hlast : s.comparator.lastState.get i = .known l)
    (hkeeps : KeepsLevel (s.channelConfig i) (v.get i) l) : t.comparator.lastState.get i = .known l := by
  cases l with
  | on =>
    rw [hystEval_lastState h (channelLevel_sensor_on hop hlast)]
    exact congrArg LastState.known (if_neg (Nat.not_lt.mpr hkeeps))
  | off =>
    rw [hystEval_lastState h (channelLevel_sensor_off hop hlast)]
    exact congrArg LastState.known (if_neg (Nat.not_lt.mpr hkeeps))

/-- Over any list of passes whose values all keep a sensor channel's level, the channel has it at the end (R124). -/
theorem runOps_hystEval_keeps_level {s t : State} {vs : List (Six Word)} {i : Fin 6} {l : Level}
    (h : runOps (vs.map .hystEval) s = .next t) (hop : (s.channelConfig i).op = .sensorControlsValve)
    (hlast : s.comparator.lastState.get i = .known l) (hkeeps : ∀ v ∈ vs, KeepsLevel (s.channelConfig i) (v.get i) l) :
    t.comparator.lastState.get i = .known l := by
  induction vs generalizing s with
  | nil => cases h; exact hlast
  | cons v vs ih =>
    obtain ⟨u, hu, ht⟩ := runOps_cons_cases h
    obtain ⟨hv, hvs⟩ := List.forall_mem_cons.mp hkeeps
    have hconfig : u.channelConfig i = s.channelConfig i := hystEval_channelConfig hu
    refine ih ht ?_ (hystEval_keeps_level hu hop hlast hv) ?_
    · rw [hconfig]; exact hop
    · rw [hconfig]; exact hvs

/-- Settles O35: the two clauses are the two levels a value can keep. -/
theorem hysteresisIsStable : Obligations.HysteresisIsStable := by
  intro s t vs i hop h
  exact ⟨runOps_hystEval_keeps_level h hop, runOps_hystEval_keeps_level h hop⟩

end Sys2Proof.Machine
end

section
/-! PROOFS. Holds and refused selectors (spec/60_exceptions.md): what sets the mark of a hold, and the reserved operation
selectors. -/

namespace Sys2Proof.Machine

/-- What an operation does to the mark of a hold: nothing, or a TX_FRAME finds the radio busy and sets it (R88, R143; log 7). -/
theorem exec_held_cases {i : Instr} {s t : State} (h : exec i s = .next t) :
    t.held = s.held ∨ ∃ cmd p, i = .txFrame cmd p ∧ s.txBusy = true ∧ t.held = true := by
  rcases exec_cases h with ⟨-, rfl⟩ | ⟨b, -, hb⟩ | ⟨cmd, p, hi, -, (⟨hbusy, rfl⟩ | ⟨-, rfl⟩)⟩ |
    ⟨_, _, _, _, -, _, _, -, -, rfl⟩ | ⟨_, _, -, _, -, rfl⟩ | ⟨_, -, _, -, rfl⟩ | ⟨-, _, rfl⟩
  case inr.inl =>
    obtain ⟨-, -, -, hheld, -⟩ := execRxByte_sameBesideCodec hb
    exact .inl hheld
  case inr.inr.inl.inl => exact .inr ⟨cmd, p, hi, hbusy, rfl⟩
  all_goals exact .inl rfl

/-- Settles O44: an operation that is no TX_FRAME under a busy radio leaves the mark, so it cannot have set it. -/
theorem onlyTxFrameHolds : Obligations.OnlyTxFrameHolds := by
  intro i s t h hbefore hafter
  rcases exec_held_cases h with hsame | ⟨cmd, p, hi, hbusy, -⟩
  · rw [hsame, hbefore] at hafter
    cases hafter
  · exact ⟨⟨cmd, p, hi⟩, hbusy⟩

/-- Settles O46: the meaning of each reserved selector is `refuseReserved`, which does not look at the state (R131). -/
theorem reservedSelectorsRefused : Obligations.ReservedSelectorsRefused :=
  fun _ => ⟨rfl, rfl, rfl, rfl, rfl, rfl⟩

end Sys2Proof.Machine
end

section
/-! PROOFS. Reset (spec/70_reset_and_hazards.md): what RESET leaves, the first wire frame after it, and the boot sequence that
makes a pass complete. -/

namespace Sys2Proof.Machine

/-! ## RESET (R144) -/

theorem exec_reset (s : State) : exec .reset s = .next (s.resetBlock.returning .none) := rfl

/-- Settles O37: the comparator's fields are those of `resetComparator`, and nothing outside the block state is written. -/
theorem resetOperation : Obligations.ResetOperation := by
  intro s
  refine ⟨_, exec_reset s, rfl, fun i => ⟨?op, ?min, ?max, ?last⟩, rfl, rfl, rfl, rfl, rfl, rfl,
    exec_sameInputs (exec_reset s)⟩
  case op => exact s.resetComparator_operation i
  case min => exact s.resetComparator_minThreshold i
  case max => exact s.resetComparator_maxThreshold i
  case last => exact s.resetComparator_lastState i

/-- Settles O39: RESET leaves the codec in WaitSync1, whatever it was receiving, and there a frame that fits is reassembled. -/
theorem resetAbandonsPartialFrame : Obligations.ResetAbandonsPartialFrame := by
  intro s cmd payload hfits
  obtain ⟨t, ht, hframes, -⟩ := wireFrameIsReassembled (s.resetBlock.returning .none) cmd payload rfl hfits
  exact ⟨t, (runOps_cons_next (exec_reset s)).trans ht, hframes⟩

/-! ## The boot sequence (R125, R145) -/

/-- STATE_LOAD of each of these channels, with its level out of `l` (R145). -/
def stateLoads (l : Six Level) (channels : List (Fin 6)) : List Instr :=
  channels.map fun i => .stateLoad i.val (l.get i)

/-- The loads complete: a channel among them has its level, any other keeps its `last` (R114). -/
theorem runOps_stateLoads (l : Six Level) (channels : List (Fin 6)) (s : State) :
    ∃ t, runOps (stateLoads l channels) s = .next t ∧
      ∀ i, t.comparator.lastState.get i = if i ∈ channels then .known (l.get i) else s.comparator.lastState.get i := by
  induction channels generalizing s with
  | nil => exact ⟨s, rfl, fun i => (if_neg List.not_mem_nil).symm⟩
  | cons j channels ih =>
    obtain ⟨t, ht, hlast⟩ := ih ((s.loadLevel j (l.get j)).returning .none)
    refine ⟨t, (runOps_cons_next (exec_stateLoad j (l.get j))).trans ht, fun i => ?_⟩
    rw [hlast i, State.returning_comparator, State.loadLevel_comparator, Six.get_set]
    by_cases hij : i = j
    · simp [hij]
    · simp [hij]

/-- Where every `last` is known no pass is refused, whatever the modes are (R125). -/
theorem sensorsKnown_of_known {s : State} {l : Six Level} (h : ∀ i, s.comparator.lastState.get i = .known (l.get i)) :
    SensorsKnown s := by
  intro i _ hunset
  rw [h i] at hunset
  cases hunset

/-- Settles O40: after the six loads every `last` is known, so the pass completes, and it makes each `last` the valve level. -/
theorem bootSequenceMakesPassesComplete : Obligations.BootSequenceMakesPassesComplete := by
  intro s l v
  obtain ⟨u, hu, hloaded⟩ := runOps_stateLoads l (List.finRange 6) (s.resetBlock.returning .none)
  have hknown (i : Fin 6) : u.comparator.lastState.get i = .known (l.get i) := by
    rw [hloaded i, if_pos (List.mem_finRange i)]
  obtain ⟨t, new, ht, -, hlast, hvalve, -⟩ := (hystEvalAppliesPolicy u v).1 (sensorsKnown_of_known hknown)
  have hlevel (i : Fin 6) : t.comparator.lastState.get i = .known (t.valve.get i) := by
    rw [hlast i, hvalve]
  refine ⟨t, ?_, sensorsKnown_of_known hlevel, hlevel⟩
  calc runOps (.reset :: (stateLoads l (List.finRange 6) ++ [.hystEval v])) s
      = runOps (stateLoads l (List.finRange 6) ++ [.hystEval v]) (s.resetBlock.returning .none) :=
        runOps_cons_next (exec_reset s)
    _ = runOps [.hystEval v] u := runOps_append hu
    _ = .next t := runOps_cons_next ht

end Sys2Proof.Machine
end

section
/-! PROOFS. Every byte is a command row, and the row presented alone runs as CMD_DECODE on the byte (spec/43_command_byte.md
section 2, log 3). -/

namespace Sys2Proof.Machine

/-- A command byte is read as the row of its fields (R56, R59). -/
theorem decode_cmd_cons (c : Byte) (rest : List Byte) :
    decode .cmd (c :: rest) = .ok (commandRow (fieldsOf c), rest) := rfl

/-- The row of a byte's fields is encoded as that byte alone (R59, R60). -/
theorem encode_commandRow_fieldsOf (c : Byte) :
    encode (commandRow (fieldsOf c)) = { format := .cmd, bytes := [c] } := by
  rw [encode_commandRow, cmdRequest, byteOf_fieldsOf]

/-- The row of a byte's fields reports what CMD_DECODE reports on the byte (log 3). -/
theorem exec_commandRow_fieldsOf (c : Byte) (s : State) :
    exec (commandRow (fieldsOf c)) s = exec (.cmdDecode c) s := by
  rw [exec_commandRow, exec_cmdDecode]

/-- Settles O26: the row of the byte's fields is read from it, encoded as it and run as CMD_DECODE on it. -/
theorem commandRowRunsAsCmdDecode : Obligations.CommandRowRunsAsCmdDecode := fun s c rest =>
  ⟨commandRow (fieldsOf c), decode_cmd_cons c rest, encode_commandRow_fieldsOf c, exec_commandRow_fieldsOf c s⟩

end Sys2Proof.Machine
end
